-- ==== Sys2Proof/Word.lean ====
section
/-!
DEFINITION. The words of the engine (spec/00_scope.md R3, R4, R9): unsigned, and taken modulo their width.
The rotation and the byte order stand in Machine/Operands.lean.
-/
namespace Sys2Proof

/-- A lane of the state: an unsigned 64-bit word, bit 0 the least significant (R3, R4). -/
abbrev Lane := BitVec 64

/-- A byte of a payload or of a response (R9). -/
abbrev Byte := BitVec 8

/-- A 32-bit word: a command word (R61) or the value of `STATUS` (R23). -/
abbrev Word := BitVec 32

end Sys2Proof
end

