-- ==== Sys2Proof/Config.lean ====
section
/-!
DEFINITION. What the design fixes (spec/00_scope.md R2). The spec has no free value (R10), so this file has none.
The round-constant ROM, a constant of the configuration too (spec/10_state.md R25), stands in
Machine/RoundConstants.lean.
-/
namespace Sys2Proof

/-- The state array `A`: 25 lanes, never resized (spec/10_state.md R20). Flat index `k = x + 5*y`. -/
abbrev Lanes := Vector Lane 25

/-- `R`, the rate in bytes: the length of a block (R2). -/
abbrev Config.rateBytes : Nat := 136

/-- `RLANES`, the lanes a block covers (R2; spec/90_conflicts.md C2). -/
abbrev Config.rateLanes : Nat := 17

/-- `d / 8`, the length of the digest in bytes (R2). -/
abbrev Config.digestBytes : Nat := 32

/-- `NROUNDS` (R2). -/
abbrev Config.rounds : Nat := 24

/-- How many engines `State.reset` has beyond the first. `NUM_ENGINES >= 1` is a model argument
(R2, spec/10_state.md R30): `State.resetWith` takes it, and `State.reset` fixes the least value.
DESIGN CHOICE (log entry 1), unsafe only for a claim about the number of engines at `State.reset`. -/
abbrev Config.extraEnginesAtReset : Nat := 0

end Sys2Proof
end

