-- ==== Sys2Proof/Syntax.lean ====
section
/-!
DEFINITION. The commands of the engine, one constructor per row of spec/opcode_table.json (spec/30_encoding.md R64).
`ARG` appears as an operand of the type of its legal range (R63), so that no command out of range can be written;
a command word whose `ARG` is out of range has no `Instr` and faults in `runCommand` (Machine/Fetch.lean).
A payload is a list of bytes of any length: a wrong length is a term, ill formed (R68).
-/
namespace Sys2Proof

inductive Instr where
  /-- INIT (spec/40_sponge_absorb.md R83). -/
  | init
  /-- XORIN, payload of one block (R84). -/
  | xorin (payload : List Byte)
  /-- ABSORB, payload of one block (R85). -/
  | absorb (payload : List Byte)
  /-- ABSORBF, `n` the length of the final part of the message, payload of `n` bytes (R86). -/
  | absorbf (n : Fin 136) (payload : List Byte)
  /-- PERMUTE (spec/41_permutation.md R115). -/
  | permute
  /-- ROUND, round index `i` (R114). -/
  | round (i : Fin 24)
  /-- THETA (R110). -/
  | theta
  /-- RHOPI (R111). -/
  | rhopi
  /-- CHI (R112). -/
  | chi
  /-- IOTA, round index `i` (R113). -/
  | iota (i : Fin 24)
  /-- RDRC, round-constant index `i` (R116). -/
  | rdrc (i : Fin 24)
  /-- SQUEEZE (spec/42_squeeze_access.md R141). -/
  | squeeze
  /-- RDLANE, lane index `k = x + 5*y` (R142). -/
  | rdlane (k : Fin 25)
  /-- WRLANE, lane index `k`, payload of 8 bytes (R143). -/
  | wrlane (k : Fin 25) (payload : List Byte)
  /-- RDSTATUS (R144). -/
  | rdstatus
  deriving DecidableEq, Repr

end Sys2Proof
end

