-- ==== Sys2Proof/WellFormed.lean ====
section
/-!
DEFINITION. Which commands are well formed: the payload has the length spec/30_encoding.md R68 fixes.
The other checks of R69 are about the command word and stand in Decode.lean.
-/
namespace Sys2Proof

/-- The payload has the required length (R68). -/
def Instr.wellFormed : Instr → Bool
  | .init => true
  | .xorin p => p.length == 136
  | .absorb p => p.length == 136
  | .absorbf n p => p.length == n.val
  | .permute => true
  | .round _ => true
  | .theta => true
  | .rhopi => true
  | .chi => true
  | .iota _ => true
  | .rdrc _ => true
  | .squeeze => true
  | .rdlane _ => true
  | .wrlane _ p => p.length == 8
  | .rdstatus => true

end Sys2Proof
end

