-- ==== Sys2Proof/Decode.lean ====
section
/-!
DEFINITION. Command words, the validity check, the decoder and, after it, the encoder (spec/30_encoding.md R60 to R71).
The decoder is total on every command and rejects by cause. The byte-serial form of R62 and R71 stands at the end.
-/
namespace Sys2Proof

/-- A command `(W, P)`: a 32-bit command word and a payload (R60). -/
structure Command where
  /-- `W`. -/
  word : Word
  /-- `P`. -/
  payload : List Byte
  deriving DecidableEq, Repr

/-- The causes a command can be rejected for (R69; spec/60_exceptions.md R160). -/
inductive Cause where
  | illegalOpcode
  | reservedBits
  | argRange
  | payloadLength
  deriving DecidableEq, Repr

/-- The cause's code in `STATUS.CAUSE` (spec/60_exceptions.md R160). -/
def Cause.code : Cause → BitVec 8
  | .illegalOpcode => 0x01#8
  | .reservedBits => 0x02#8
  | .argRange => 0x03#8
  | .payloadLength => 0x04#8

/-- `OPC = W[7:0]` (R61). -/
def Command.opc (c : Command) : BitVec 8 := c.word.extractLsb' 0 8

/-- `ARG = W[15:8]` (R61). -/
def Command.arg (c : Command) : BitVec 8 := c.word.extractLsb' 8 8

/-- `RSV = W[31:16]` (R61). -/
def Command.rsv (c : Command) : BitVec 16 := c.word.extractLsb' 16 16

/-- The command word of an `OPC` and an `ARG`, with `RSV = 0` (R61). -/
def commandWord (op arg : BitVec 8) : Word := 0#16 ++ arg ++ op

/-- Whether `OPC` is assigned; every other value is reserved (R64, R65). -/
def assigned (op : Nat) : Bool :=
  [0x01, 0x02, 0x03, 0x04, 0x08, 0x09, 0x0A, 0x0B, 0x0C, 0x0D, 0x0E, 0x10, 0x11, 0x12, 0x1F].contains op

/-- Whether `ARG` is in its opcode's legal range (R63, R69 `argOK`). -/
def argOK (op arg : Nat) : Bool :=
  if op = 0x04 then decide (arg ≤ 135)
  else if op = 0x09 ∨ op = 0x0D ∨ op = 0x0E then decide (arg ≤ 23)
  else if op = 0x11 ∨ op = 0x12 then decide (arg ≤ 24)
  else decide (arg = 0)

/-- The payload length the opcode requires (R68 `plen`). -/
def plen (op arg : Nat) : Nat :=
  if op = 0x02 ∨ op = 0x03 then 136
  else if op = 0x04 then arg
  else if op = 0x12 then 8
  else 0

/-- The validity check: the first cause in the order of R69, or none for a well-formed command. -/
def check (c : Command) : Option Cause :=
  if assigned c.opc.toNat = false then some .illegalOpcode
  else if c.rsv ≠ 0#16 then some .reservedBits
  else if argOK c.opc.toNat c.arg.toNat = false then some .argRange
  else if c.payload.length ≠ plen c.opc.toNat c.arg.toNat then some .payloadLength
  else none

/-- The instruction with opcode `op`, argument `arg` and payload `p`, where `op` is assigned and `arg` in its range;
none otherwise (R64). -/
def instrOf (op arg : Nat) (p : List Byte) : Option Instr :=
  match op with
  | 0x01 => some .init
  | 0x02 => some (.xorin p)
  | 0x03 => some (.absorb p)
  | 0x04 => if h : arg < 136 then some (.absorbf ⟨arg, h⟩ p) else none
  | 0x08 => some .permute
  | 0x09 => if h : arg < 24 then some (.round ⟨arg, h⟩) else none
  | 0x0A => some .theta
  | 0x0B => some .rhopi
  | 0x0C => some .chi
  | 0x0D => if h : arg < 24 then some (.iota ⟨arg, h⟩) else none
  | 0x0E => if h : arg < 24 then some (.rdrc ⟨arg, h⟩) else none
  | 0x10 => some .squeeze
  | 0x11 => if h : arg < 25 then some (.rdlane ⟨arg, h⟩) else none
  | 0x12 => if h : arg < 25 then some (.wrlane ⟨arg, h⟩ p) else none
  | 0x1F => some .rdstatus
  | _ => none

/-- The decoder: the instruction of a command, or the cause it is rejected for (R69, R70). Where the check passes
`instrOf` always answers (`Laws.instrOf_of_check`), so its `none` is never met here. -/
def decode (c : Command) : Except Cause Instr :=
  match check c with
  | some cause => .error cause
  | none =>
    match instrOf c.opc.toNat c.arg.toNat c.payload with
    | some i => .ok i
    | none => .error .illegalOpcode

/-! ### The encoder -/

/-- `OPC` of an instruction (R64). -/
def Instr.opcode : Instr → BitVec 8
  | .init => 0x01#8
  | .xorin _ => 0x02#8
  | .absorb _ => 0x03#8
  | .absorbf _ _ => 0x04#8
  | .permute => 0x08#8
  | .round _ => 0x09#8
  | .theta => 0x0A#8
  | .rhopi => 0x0B#8
  | .chi => 0x0C#8
  | .iota _ => 0x0D#8
  | .rdrc _ => 0x0E#8
  | .squeeze => 0x10#8
  | .rdlane _ => 0x11#8
  | .wrlane _ _ => 0x12#8
  | .rdstatus => 0x1F#8

/-- `ARG` of an instruction: 0 where it takes none (R63). -/
def Instr.arg : Instr → BitVec 8
  | .init => 0#8
  | .xorin _ => 0#8
  | .absorb _ => 0#8
  | .absorbf n _ => BitVec.ofNat 8 n.val
  | .permute => 0#8
  | .round i => BitVec.ofNat 8 i.val
  | .theta => 0#8
  | .rhopi => 0#8
  | .chi => 0#8
  | .iota i => BitVec.ofNat 8 i.val
  | .rdrc i => BitVec.ofNat 8 i.val
  | .squeeze => 0#8
  | .rdlane k => BitVec.ofNat 8 k.val
  | .wrlane k _ => BitVec.ofNat 8 k.val
  | .rdstatus => 0#8

/-- The payload of an instruction: empty where it takes none (R64). -/
def Instr.payload : Instr → List Byte
  | .init => []
  | .xorin p => p
  | .absorb p => p
  | .absorbf _ p => p
  | .permute => []
  | .round _ => []
  | .theta => []
  | .rhopi => []
  | .chi => []
  | .iota _ => []
  | .rdrc _ => []
  | .squeeze => []
  | .rdlane _ => []
  | .wrlane _ p => p
  | .rdstatus => []

/-- The command of an instruction (R61, R64, R72). -/
def encode (i : Instr) : Command := ⟨commandWord i.opcode i.arg, i.payload⟩

/-! ### The byte-serial form (R62, R71) -/

/-- `le32bytes(v)`: four bytes, the least significant first (spec/00_scope.md R6). -/
def le32bytes (v : Word) : List Byte :=
  [v.extractLsb' 0 8, v.extractLsb' 8 8, v.extractLsb' 16 8, v.extractLsb' 24 8]

/-- The command word sent as the bytes `b0 b1 b2 b3`. -/
def le32 (b0 b1 b2 b3 : Byte) : Word := b3 ++ b2 ++ b1 ++ b0

/-- A transaction on a byte-serial channel: the command word, `OPC` first, then the payload (R62). -/
def serialize (c : Command) : List Byte := le32bytes c.word ++ c.payload

/-- The command a byte-serial front end presents: the payload is whatever follows the word, right length or not (R71).
R62 and R71 say nothing of fewer than four bytes, an incomplete command word: that no command is then presented is
DESIGN CHOICE, unsafe for a claim about such bytes only (log entry 15). -/
def deserialize : List Byte → Option Command
  | b0 :: b1 :: b2 :: b3 :: payload => some ⟨le32 b0 b1 b2 b3, payload⟩
  | _ => none

/-- The length of a transaction in bytes, known from its first two bytes (R71). -/
def serialLength (b0 b1 : Byte) : Nat :=
  if assigned b0.toNat then 4 + plen b0.toNat b1.toNat else 4

/-- The command of an opcode-table row: its word, and a payload of the required length whose bytes are all 0.
The table numbers the bits of `W` only, so every bit above them is 0. DESIGN CHOICE, safe (log entry 11). -/
def tableCommand (nbits w : Nat) : Command :=
  let word : Word := BitVec.ofNat 32 (w % 2 ^ nbits)
  ⟨word, List.replicate (serialLength (word.extractLsb' 0 8) (word.extractLsb' 8 8) - 4) 0#8⟩

/-- The instruction the decoder reads from the bits `w` of an opcode-table row, sent as bytes and read back (R62). -/
def decodeTableWord (nbits w : Nat) : Option Instr :=
  match deserialize (serialize (tableCommand nbits w)) with
  | none => none
  | some c => (decode c).toOption

end Sys2Proof
end

