-- ==== Sys2Proof/Machine/State.lean ====
section
/-!
DEFINITION. The state, as plain data: the engines with their lanes and `STATUS` (spec/10_state.md R20 to R31), and the
host's side of the interface, the actions not yet taken and the responses given (spec/20_memory.md R53,
spec/70_reset_and_hazards.md R190). There is no memory and no program counter (spec/20_memory.md R40, R27).
-/
namespace Sys2Proof.Machine

/-- The fields of `STATUS` (R23). Bits [7:1] are reserved and always read 0: they are no field, and the one read of the
register, `statusWord` (Machine/Flags.lean), supplies them. -/
structure Status where
  /-- `FAULT`, bit [0]: 1 after a fault has been recorded. -/
  fault : BitVec 1
  /-- `CAUSE`, bits [15:8]: the recorded cause's code. -/
  cause : BitVec 8
  /-- `FOPC`, bits [23:16]: `W[7:0]` of the faulting command. -/
  fopc : BitVec 8
  /-- `FARG`, bits [31:24]: `W[15:8]` of the faulting command. -/
  farg : BitVec 8
  deriving DecidableEq, Repr

/-- One engine instance: `S = (A, STATUS)`. -/
structure Engine where
  /-- `A`: lane `k = x + 5*y` is `lanes[k]` (R20). -/
  lanes : Lanes
  status : Status
  deriving DecidableEq, Repr

/-- What the host does to an engine: issue a command, or assert reset (spec/20_memory.md R53). -/
inductive HostEvent where
  | command (c : Command)
  | reset
  deriving DecidableEq, Repr

/-- A host action: an event, and the index of the engine it is addressed to. -/
structure HostAction where
  engine : Nat
  event : HostEvent
  deriving DecidableEq, Repr

/-- The tag of a response (spec/30_encoding.md R60). -/
inductive Tag where
  | ok
  | err
  deriving DecidableEq, Repr

/-- A response `(tag, resp)` (R60), with the index of the engine that gives it. -/
structure Response where
  engine : Nat
  tag : Tag
  bytes : List Byte
  deriving DecidableEq, Repr

/-- A platform of `NUM_ENGINES = before.length + 1 + after.length` engines (R30), and its host.
`engine` is the instance the current host action is addressed to, and its index is `before.length`. DESIGN CHOICE, safe (log entry 2). -/
structure State where
  /-- The engines of smaller index than the addressed one. -/
  before : List Engine
  /-- The addressed engine. -/
  engine : Engine
  /-- The engines of greater index than the addressed one. -/
  after : List Engine
  /-- The host's actions not yet taken, the next one first. DESIGN CHOICE, safe (log entry 3). -/
  pending : List HostAction
  /-- The responses given so far, the first one first. DESIGN CHOICE, safe (log entry 4). -/
  responses : List Response
  deriving DecidableEq, Repr

/-- Why a step stops with a fault. A fault that the SPEC gives the engine is no stop: it is recorded in `STATUS`, in a
next state (`raiseFault`). -/
inductive Fault where
  /-- Raised by `step`: the next host action is addressed to an engine the platform does not have, which no rule
  describes. DESIGN CHOICE, safe: the model stops where the spec
  says nothing (log entry 5). -/
  | noSuchEngine
  deriving DecidableEq, Repr

/-- Why a step has no meaning. -/
inductive Refusal where
  /-- For an arm of `exec` without a meaning. Safe. No arm raises it: every instruction is modelled. -/
  | notModelled (mnemonic : String)
  deriving DecidableEq, Repr

/-- `STATUS` after reset: 0x00000000 (R29). -/
def Status.reset : Status := ⟨0#1, 0#8, 0#8, 0#8⟩

/-- The all-zero lane array: its value after reset (R29) and after INIT. -/
def zeroLanes : Lanes := Vector.replicate 25 0#64

/-- An engine after reset (R29). -/
def Engine.reset : Engine := ⟨zeroLanes, Status.reset⟩

/-- A platform of `n + 1` engines after reset, with no host action pending and no response given. -/
def State.resetWith (n : Nat) : State := ⟨[], Engine.reset, List.replicate n Engine.reset, [], []⟩

/-- The machine right after reset (R29). -/
def State.reset : State := State.resetWith Config.extraEnginesAtReset

/-- The engines of the platform, in the order of their indices. -/
def State.engines (s : State) : List Engine := s.before ++ s.engine :: s.after

/-- The index of the addressed engine. -/
def State.index (s : State) : Nat := s.before.length

end Sys2Proof.Machine
end

