-- ==== Sys2Proof/Machine/Flags.lean ====
section
/-!
DEFINITION. The engine's only flag, `STATUS.FAULT`, and what `STATUS` reads as and is written with
(spec/10_state.md R23, R24, spec/60_exceptions.md R161).
-/
namespace Sys2Proof.Machine

/-- What `STATUS` reads as: `FARG`, `FOPC`, `CAUSE`, seven reserved bits that always read 0, `FAULT` (R23). -/
def statusWord (st : Status) : Word := st.farg ++ st.fopc ++ st.cause ++ 0#7 ++ st.fault

/-- `STATUS` after the fault of command `c` with a cause is recorded (R161). -/
def faultStatus (cause : Cause) (c : Command) : Status := ⟨1#1, cause.code, c.opc, c.arg⟩

/-- Faulted mode: `STATUS.FAULT = 1` (spec/60_exceptions.md R163). -/
def faulted (e : Engine) : Bool := e.status.fault == 1#1

end Sys2Proof.Machine
end

