-- ==== Sys2Proof/Machine/Operands.lean ====
section
/-!
DEFINITION. Operand forms: lane coordinates (spec/00_scope.md R7), the rotation (R5), and the byte order of every
transfer between bytes and lanes (R6, spec/20_memory.md R41).
-/
namespace Sys2Proof.Machine

/-- The flat index `k = x + 5*y` of lane `(x, y)` (R7). -/
def laneIndex (x y : Fin 5) : Fin 25 := ⟨x.val + 5 * y.val, by omega⟩

/-- `x = k mod 5` (R7). -/
def laneX (k : Fin 25) : Fin 5 := ⟨k.val % 5, by omega⟩

/-- `y = k div 5` (R7). -/
def laneY (k : Fin 25) : Fin 5 := ⟨k.val / 5, by omega⟩

/-- `Lane(k)` (R8). -/
def readLane (a : Lanes) (k : Fin 25) : Lane := a.get k

/-- `Lane(k) <- v` (R8). -/
def writeLane (a : Lanes) (k : Fin 25) (v : Lane) : Lanes := a.set k.val v k.isLt

/-- `A[x, y]` (R8). Coordinates are `Fin 5`, whose arithmetic is modulo 5 with a non-negative result (R7). -/
def laneAt (a : Lanes) (x y : Fin 5) : Lane := readLane a (laneIndex x y)

/-- The lane array whose lane `(x, y)` is `f x y`: a fresh array, written from a snapshot. -/
def lanesOf (f : Fin 5 → Fin 5 → Lane) : Lanes := Vector.ofFn fun k => f (laneX k) (laneY k)

/-- `rotl(a, d)`: `(a << d) | (a >> (64 - d))` within 64 bits, for `d` below 64 (R5). A shift by 64 gives 0, so
`rotl a 0 = a`, as R5 has it. -/
def rotl (a : Lane) (d : Nat) : Lane := (a <<< d) ||| (a >>> (64 - d))

/-- `le64bytes(v)`: byte `k` is `v[8k+7:8k]` (R6). -/
def le64bytes (v : Lane) : List Byte := (List.range 8).map fun k => v.extractLsb' (8 * k) 8

/-- `le64(b0, ..., b7) = b0 | b1<<8 | ... | b7<<56` (R6), of eight bytes. Its value on other lists is DESIGN CHOICE and no
command reads it (log entry 9). -/
def le64 (bs : List Byte) : Lane := bs.foldr (fun b acc => b.setWidth 64 ||| (acc <<< 8)) 0#64

/-- The bytes `B[8j], ..., B[8j+7]` of a block as a lane (R82 of spec/40_sponge_absorb.md). -/
def blockLane (b : List Byte) (j : Nat) : Lane := le64 ((b.drop (8 * j)).take 8)

end Sys2Proof.Machine
end

