-- ==== Sys2Proof/Machine/Ops.lean ====
section
/-!
DEFINITION. The named operations on the state: answering the host, completing a command, taking a fault and leaving it
(spec/30_encoding.md R60, R70, spec/60_exceptions.md R161 to R163, spec/70_reset_and_hazards.md R180), and selecting the
engine a host action is addressed to (spec/10_state.md R30).
-/
namespace Sys2Proof.Machine

/-- The addressed engine answers the host (R60). -/
def respond (tag : Tag) (bytes : List Byte) (s : State) : State :=
  { s with responses := s.responses ++ [⟨s.index, tag, bytes⟩] }

/-- The lane array of the addressed engine replaced. -/
def setLanes (a : Lanes) (s : State) : State := { s with engine := { s.engine with lanes := a } }

/-- `STATUS` of the addressed engine replaced. Only fault entry calls it (R24). -/
def setStatus (st : Status) (s : State) : State := { s with engine := { s.engine with status := st } }

/-- TAKING A FAULT, `raise Fault(cause)` for the command `c`: `STATUS` records it, the response is `(ERR, [])`, and
nothing else changes (R161, R162). There is no handler and no saved pc. Called in normal mode only. -/
def raiseFault (cause : Cause) (c : Command) (s : State) : State :=
  respond .err [] (setStatus (faultStatus cause c) s)

/-- The refusal of a command in faulted mode: the response is `(ERR, [])`, and nothing else changes (R163). -/
def refuse (s : State) : State := respond .err [] s

/-- LEAVING FAULTED MODE: reset, an event and no command, sets every lane and `STATUS` to 0 and gives no response
(R180). No command returns from a fault (R163). -/
def resetEngine (s : State) : State := { s with engine := Engine.reset }

/-- A command whose check fails (R70): refused in faulted mode, where no second fault is recorded; else it faults. -/
def rejectCommand (cause : Cause) (c : Command) (s : State) : State :=
  if faulted s.engine then refuse s else raiseFault cause c s

/-- The frame of every command but RDSTATUS (R70): refused in faulted mode; a fault if its check fails; else `body` gives
from the lanes their new value and the response's bytes, and the tag is `OK`. The check of an `Instr` can fail only on its
payload length. -/
def runChecked (i : Instr) (body : Lanes → Lanes × List Byte) (s : State) :
    Host.Outcome State Fault Refusal :=
  match check (encode i) with
  | some cause => .next (rejectCommand cause (encode i) s)
  | none =>
    if faulted s.engine then .next (refuse s)
    else .next (respond .ok (body s.engine.lanes).2 (setLanes (body s.engine.lanes).1 s))

/-- The platform with engine `e` as the addressed one, or none if there is no engine `e` (R30). -/
def select (e : Nat) (s : State) : Option State :=
  match s.engines.drop e with
  | [] => none
  | x :: rest => some { s with before := s.engines.take e, engine := x, after := rest }

end Sys2Proof.Machine
end

