-- ==== Sys2Proof/Machine/AccessCommands.lean ====
section
/-!
DEFINITION. Lane access and status: RDLANE, WRLANE and RDSTATUS (spec/42_squeeze_access.md R142 to R144).
-/
namespace Sys2Proof.Machine

/-- RDLANE: lane `k`, capacity lanes included, 8 bytes; the lanes are kept (R142). -/
def execRdlane (k : Fin 25) (s : State) : Host.Outcome State Fault Refusal :=
  runChecked (.rdlane k) (fun a => (a, le64bytes (readLane a k))) s

/-- WRLANE: lane `k`, capacity lanes included, replaced by the payload's value (R143). -/
def execWrlane (k : Fin 25) (p : List Byte) (s : State) : Host.Outcome State Fault Refusal :=
  runChecked (.wrlane k p) (fun a => (writeLane a k (le64 p), [])) s

/-- RDSTATUS: `STATUS`, 4 bytes. It is the one command that works in faulted mode too (R144, R163), and reading does not
clear `FAULT`. An `Instr.rdstatus` is the exact form `W = 0x0000001F` with an empty payload, so it has no check to fail. -/
def execRdstatus (s : State) : Host.Outcome State Fault Refusal :=
  .next (respond .ok (le32bytes (statusWord s.engine.status)) s)

end Sys2Proof.Machine
end

