-- ==== Sys2Proof/Machine/RoundConstants.lean ====
section
/-!
DEFINITION. The round-constant ROM (spec/10_state.md R25, spec/41_permutation.md R105) and the shift register that gives
the same table (R106). The ROM is a constant, no part of the state.
-/
namespace Sys2Proof.Machine

/-- The ROM as R105 prints it, in two columns: row `r` holds `RC[r]` and `RC[r + 12]`. -/
def roundConstantRows : Vector (Lane × Lane) 12 := #v[
  (0x0000000000000001, 0x000000008000808B),
  (0x0000000000008082, 0x800000000000008B),
  (0x800000000000808A, 0x8000000000008089),
  (0x8000000080008000, 0x8000000000008003),
  (0x000000000000808B, 0x8000000000008002),
  (0x0000000080000001, 0x8000000000000080),
  (0x8000000080008081, 0x000000000000800A),
  (0x8000000000008009, 0x800000008000000A),
  (0x000000000000008A, 0x8000000080008081),
  (0x0000000000000088, 0x8000000000008080),
  (0x0000000080008009, 0x0000000080000001),
  (0x000000008000000A, 0x8000000080008008)]

/-- `RC[i]` (R8): the left column of R105 for `i` below 12, the right column above. -/
def rc (i : Fin 24) : Lane :=
  if h : i.val < 12 then (roundConstantRows.get ⟨i.val, h⟩).1
  else (roundConstantRows.get ⟨i.val - 12, by omega⟩).2

/-- One step of the shift register `R[0..7]`: `R[j]` is bit `j`, and `R[8]`, the bit shifted out, is XORed into
`R[0]`, `R[4]`, `R[5]` and `R[6]` (R106). -/
def lfsrStep (r : BitVec 8) : BitVec 8 :=
  (r <<< 1) ^^^ (if r.getLsbD 7 then 0x71#8 else 0#8)

/-- The register after `n` steps from `[1,0,0,0,0,0,0,0]` (R106). -/
def lfsr : Nat → BitVec 8
  | 0 => 1#8
  | n + 1 => lfsrStep (lfsr n)

/-- `rc(t)`, the output bit of the register (R106). -/
def rcBit (t : Nat) : Bool := if t % 255 = 0 then true else (lfsr (t % 255)).getLsbD 0

/-- `RC[i]` as the sum over `j` of `rc(j + 7*i) << (2^j - 1)` (R106): the summands have no bit in common. -/
def rcFromLfsr (i : Fin 24) : Lane :=
  (List.range 7).foldl (fun acc j => acc + (if rcBit (j + 7 * i.val) then 1#64 <<< (2 ^ j - 1) else 0#64)) 0#64

end Sys2Proof.Machine
end

