-- ==== Sys2Proof/Machine/Keccak.lean ====
section
/-!
DEFINITION. The Keccak-f[1600] permutation and its round transforms, as pure functions of the lane array
(spec/41_permutation.md R101 to R109). Working values are snapshots, never state (spec/10_state.md R28,
spec/70_reset_and_hazards.md R184 to R186).
-/
namespace Sys2Proof.Machine

/-- The column parities `C[0..4]` of theta, all from the input (R101, R184). -/
def parities (a : Lanes) : Vector Lane 5 :=
  Vector.ofFn fun x => laneAt a x 0 ^^^ laneAt a x 1 ^^^ laneAt a x 2 ^^^ laneAt a x 3 ^^^ laneAt a x 4

/-- The values `D[0..4]` of theta, from the parities (R101). -/
def thetaMix (c : Vector Lane 5) : Vector Lane 5 :=
  Vector.ofFn fun x => c.get (x - 1) ^^^ rotl (c.get (x + 1)) 1

/-- `Theta(A)` (R101). -/
def theta (a : Lanes) : Lanes :=
  let d := thetaMix (parities a)
  lanesOf fun x y => laneAt a x y ^^^ d.get x

/-- The offset of step `t` of the rho and pi traversal: `((t + 1)*(t + 2)/2) mod 64` (R102). -/
def rhoOffset (t : Nat) : Nat := ((t + 1) * (t + 2) / 2) % 64

/-- Where the traversal goes from `(x, y)`: to `(y, (2*x + 3*y) mod 5)` (R102). -/
def piNext (x y : Fin 5) : Fin 5 × Fin 5 := (y, 2 * x + 3 * y)

/-- The loop variables of the rho and pi traversal (R102). -/
structure RhoPiLoop where
  /-- `A'`. -/
  lanes : Lanes
  x : Fin 5
  y : Fin 5
  /-- The displaced lane carried to the next step. -/
  cur : Lane

/-- Step `t` of the traversal: the destination is read before it is written (R102, R186). -/
def rhoPiStep (l : RhoPiLoop) (t : Nat) : RhoPiLoop :=
  let dest := piNext l.x l.y
  { lanes := writeLane l.lanes (laneIndex dest.1 dest.2) (rotl l.cur (rhoOffset t))
    x := dest.1
    y := dest.2
    cur := laneAt l.lanes dest.1 dest.2 }

/-- `RhoPi(A)`: the in-place traversal of the 24 lanes other than (0,0), from (1,0) (R102). -/
def rhoPi (a : Lanes) : Lanes :=
  ((List.range 24).foldl rhoPiStep { lanes := a, x := 1, y := 0, cur := laneAt a 1 0 }).lanes

/-- `Chi(A)`: each row from its snapshot (R104, R185). -/
def chi (a : Lanes) : Lanes :=
  lanesOf fun x y => laneAt a x y ^^^ (~~~(laneAt a (x + 1) y) &&& laneAt a (x + 2) y)

/-- `Iota(A, i)`: `RC[i]` into lane (0,0) only (R107). -/
def iota (a : Lanes) (i : Fin 24) : Lanes := writeLane a 0 (readLane a 0 ^^^ rc i)

/-- `Rnd(A, i)`: theta, rho and pi, chi, iota, in this order (R108). -/
def rnd (a : Lanes) (i : Fin 24) : Lanes := iota (chi (rhoPi (theta a))) i

/-- `KeccakF(A)`: the rounds 0, 1, ..., 23, all of them (R109, R188). -/
def keccakF (a : Lanes) : Lanes := (List.finRange 24).foldl rnd a

end Sys2Proof.Machine
end

