-- ==== Sys2Proof/Machine/PermutationCommands.lean ====
section
/-!
DEFINITION. The permutation commands PERMUTE, ROUND, THETA, RHOPI, CHI, IOTA and RDRC
(spec/41_permutation.md R110 to R116).
-/
namespace Sys2Proof.Machine

/-- PERMUTE: Keccak-f[1600] (R115). -/
def execPermute (s : State) : Host.Outcome State Fault Refusal :=
  runChecked .permute (fun a => (keccakF a, [])) s

/-- ROUND: one round with round index `i`, an operand; the engine keeps no round counter (R114). -/
def execRound (i : Fin 24) (s : State) : Host.Outcome State Fault Refusal :=
  runChecked (.round i) (fun a => (rnd a i, [])) s

/-- THETA (R110). -/
def execTheta (s : State) : Host.Outcome State Fault Refusal :=
  runChecked .theta (fun a => (theta a, [])) s

/-- RHOPI (R111). -/
def execRhopi (s : State) : Host.Outcome State Fault Refusal :=
  runChecked .rhopi (fun a => (rhoPi a, [])) s

/-- CHI (R112). -/
def execChi (s : State) : Host.Outcome State Fault Refusal :=
  runChecked .chi (fun a => (chi a, [])) s

/-- IOTA: `RC[i]` into lane (0,0) (R113). -/
def execIota (i : Fin 24) (s : State) : Host.Outcome State Fault Refusal :=
  runChecked (.iota i) (fun a => (iota a i, [])) s

/-- RDRC: `RC[i]`, 8 bytes; the lanes are kept (R116). -/
def execRdrc (i : Fin 24) (s : State) : Host.Outcome State Fault Refusal :=
  runChecked (.rdrc i) (fun a => (a, le64bytes (rc i))) s

end Sys2Proof.Machine
end

