-- ==== Sys2Proof/Machine/Sponge.lean ====
section
/-!
DEFINITION. Padding, absorption and squeezing, as pure functions (spec/40_sponge_absorb.md R80, R82, R87,
spec/42_squeeze_access.md R140).
-/
namespace Sys2Proof.Machine

/-- `pad(M)`: pad10*1 with the SHA3 domain suffix, at a rate of 136 bytes (R80). -/
def pad (m : List Byte) : List Byte :=
  let q := Config.rateBytes - m.length % Config.rateBytes
  if q = 1 then m ++ [0x86#8]
  else m ++ [0x06#8] ++ List.replicate (q - 2) 0x00#8 ++ [0x80#8]

/-- `XorBlock(A, B)`: the block's 17 lanes into lanes 0..16; lanes 17..24 unchanged (R82). -/
def xorBlock (a : Lanes) (b : List Byte) : Lanes :=
  Vector.ofFn fun k =>
    if k.val < Config.rateLanes then readLane a k ^^^ blockLane b k.val else readLane a k

/-- One absorber iteration (R85). -/
def absorbBlock (a : Lanes) (b : List Byte) : Lanes := keccakF (xorBlock a b)

/-- Block `b` of a byte sequence: `M[136*b .. 136*b+135]` (R87). -/
def block (m : List Byte) (b : Nat) : List Byte :=
  (m.drop (Config.rateBytes * b)).take Config.rateBytes

/-- `Absorb(A0, Mp)` of a whole padded message, whose length is a multiple of 136 (R87). -/
def absorbMessage (a : Lanes) (mp : List Byte) : Lanes :=
  (List.range (mp.length / Config.rateBytes)).foldl (fun acc b => absorbBlock acc (block mp b)) a

/-- `Squeeze(A)`: `y` outer, `x` inner, the rate lanes only, the first 32 bytes (R140). -/
def squeezeBytes (a : Lanes) : List Byte :=
  ((List.finRange 5).flatMap fun y =>
    (List.finRange 5).flatMap fun x =>
      if x.val + 5 * y.val ≤ 16 then le64bytes (laneAt a x y) else []).take Config.digestBytes

end Sys2Proof.Machine
end

