-- ==== Sys2Proof/Machine/SpongeCommands.lean ====
section
/-!
DEFINITION. The sponge commands INIT, XORIN, ABSORB, ABSORBF and SQUEEZE (spec/40_sponge_absorb.md R83 to R86,
spec/42_squeeze_access.md R141). The engine keeps no sponge phase (R88).
-/
namespace Sys2Proof.Machine

/-- INIT: every lane 0; `STATUS` unchanged (R83). -/
def execInit (s : State) : Host.Outcome State Fault Refusal :=
  runChecked .init (fun _ => (zeroLanes, [])) s

/-- XORIN: a block into the rate lanes, with no permutation (R84). -/
def execXorin (p : List Byte) (s : State) : Host.Outcome State Fault Refusal :=
  runChecked (.xorin p) (fun a => (xorBlock a p, [])) s

/-- ABSORB: one absorber iteration on a full block (R85). -/
def execAbsorb (p : List Byte) (s : State) : Host.Outcome State Fault Refusal :=
  runChecked (.absorb p) (fun a => (absorbBlock a p, [])) s

/-- ABSORBF: the padded final part of a message absorbed, always exactly one block (R86). -/
def execAbsorbf (n : Fin 136) (p : List Byte) (s : State) : Host.Outcome State Fault Refusal :=
  runChecked (.absorbf n p) (fun a => (absorbBlock a (pad p), [])) s

/-- SQUEEZE: the digest; the lanes are kept (R141). -/
def execSqueeze (s : State) : Host.Outcome State Fault Refusal :=
  runChecked .squeeze (fun a => (a, squeezeBytes a)) s

end Sys2Proof.Machine
end

