-- ==== Sys2Proof/Machine/Dispatch.lean ====
section
/-!
DEFINITION. The dispatch of a decoded command to its meaning (spec/30_encoding.md R64, R70).
-/
namespace Sys2Proof.Machine

def exec (i : Instr) (s : State) : Host.Outcome State Fault Refusal :=
  match i with
  | .init => Sys2Proof.Machine.execInit s
  | .xorin p => Sys2Proof.Machine.execXorin p s
  | .absorb p => Sys2Proof.Machine.execAbsorb p s
  | .absorbf n p => Sys2Proof.Machine.execAbsorbf n p s
  | .permute => Sys2Proof.Machine.execPermute s
  | .round k => Sys2Proof.Machine.execRound k s
  | .theta => Sys2Proof.Machine.execTheta s
  | .rhopi => Sys2Proof.Machine.execRhopi s
  | .chi => Sys2Proof.Machine.execChi s
  | .iota k => Sys2Proof.Machine.execIota k s
  | .rdrc k => Sys2Proof.Machine.execRdrc k s
  | .squeeze => Sys2Proof.Machine.execSqueeze s
  | .rdlane k => Sys2Proof.Machine.execRdlane k s
  | .wrlane k p => Sys2Proof.Machine.execWrlane k p s
  | .rdstatus => Sys2Proof.Machine.execRdstatus s

end Sys2Proof.Machine
end

