-- ==== Sys2Proof/Machine/Fetch.lean ====
section
/-!
DEFINITION. How the machine comes by its next command: from the host, one action at a time in the order of issue
(spec/20_memory.md R48, R53, R54, spec/30_encoding.md R70). `step` (Machine/Step.lean) only calls `takeAction`.
-/
namespace Sys2Proof.Machine

/-- The addressed engine is given a command: decoded, it runs; rejected, it faults or is refused (R70). -/
def runCommand (c : Command) (s : State) : Host.Outcome State Fault Refusal :=
  match decode c with
  | .ok i => exec i s
  | .error cause => .next (rejectCommand cause c s)

/-- The addressed engine is given a host event. -/
def runEvent (ev : HostEvent) (s : State) : Host.Outcome State Fault Refusal :=
  match ev with
  | .command c => runCommand c s
  | .reset => .next (resetEngine s)

/-- The next host action is taken and given to the engine it is addressed to. With no action pending, nothing changes:
the engine never acts on its own, and it never halts by itself (R54, spec/70_reset_and_hazards.md R190). DEDUCED, safe
(log entry 7). -/
def takeAction (s : State) : Host.Outcome State Fault Refusal :=
  match s.pending with
  | [] => .next s
  | act :: rest =>
    match select act.engine s with
    | none => .fault .noSuchEngine
    | some s' => runEvent act.event { s' with pending := rest }

/-- A command placed as the host's next action, addressed to the engine addressed last. -/
def placeCommand (c : Command) (s : State) : State :=
  { s with pending := ⟨s.index, .command c⟩ :: s.pending }

end Sys2Proof.Machine
end

