-- ==== Sys2Proof/Machine/Step.lean ====
section
/-!
DEFINITION. One step of the machine: one host action, one transaction (spec/00_scope.md R13).
-/
namespace Sys2Proof.Machine

/-- One step (spec/30_encoding.md R70; Machine/Fetch.lean). -/
def step (s : State) : Host.Outcome State Fault Refusal := takeAction s

/-- `s` with an opcode-table row's word, and a payload of zeros of the required length, as the host's next action. -/
def State.withFetchWord (s : State) (nbits w : Nat) : State := placeCommand (tableCommand nbits w) s

end Sys2Proof.Machine
end

