-- ==== Sys2Proof/Machine/HostProcedures.lean ====
section
/-!
DEFINITION. What the host does with the engine: the pseudo-instructions HASH and RDSTATE (spec/30_encoding.md R73), the
SHA3-256 value they compute (spec/40_sponge_absorb.md R87), and the rendering of a digest (spec/42_squeeze_access.md R145).
No part of `step`.
-/
namespace Sys2Proof.Machine

/-- The full blocks of a message: block `b` for `b = 0 .. (L div 136) - 1`, in order (R73). -/
def fullBlocks (m : List Byte) : List (List Byte) :=
  (List.range (m.length / Config.rateBytes)).map (block m)

/-- The final part of a message, its last `L mod 136` bytes (R73). -/
def finalPart (m : List Byte) : List Byte := m.drop (Config.rateBytes * (m.length / Config.rateBytes))

/-- `HASH x"<m>"`: INIT, ABSORB of each full block, ABSORBF of the final part, SQUEEZE (R73). -/
def hashProgram (m : List Byte) : List Instr :=
  [.init] ++ (fullBlocks m).map .absorb ++
    [.absorbf ⟨m.length % Config.rateBytes, Nat.mod_lt _ (by decide)⟩ (finalPart m), .squeeze]

/-- `RDSTATE`: RDLANE 0 to RDLANE 24, in order (R73). -/
def rdstateProgram : List Instr := (List.finRange 25).map .rdlane

/-- The commands of a program as the host's actions, addressed to engine `e`. -/
def issue (e : Nat) (is : List Instr) : List HostAction := is.map fun i => ⟨e, .command (encode i)⟩

/-- SHA3-256 of a message: `Squeeze(Absorb(0, pad(M)))` (R87, R140). -/
def sha3 (m : List Byte) : List Byte := squeezeBytes (absorbMessage zeroLanes (pad m))

/-- A hexadecimal digit in lower case. -/
def hexDigit (n : BitVec 4) : Char :=
  if n.toNat < 10 then Char.ofNat (48 + n.toNat) else Char.ofNat (87 + n.toNat)

/-- A digest as text: two lower-case digits a byte, the most significant nibble first (R145). -/
def renderDigest (bs : List Byte) : List Char :=
  bs.flatMap fun b => [hexDigit (b.extractLsb' 4 4), hexDigit (b.extractLsb' 0 4)]

end Sys2Proof.Machine
end

