-- ==== Sys2Proof/Machine/Transaction.lean ====
section
/-!
DEFINITION. `Exec(S, W, P) = (S', tag, resp)` of spec/30_encoding.md R70, written as the rule writes it, over one engine
and the raw command. `step` is built from the decoder, the arms of `exec` and the shared operations instead; that the two
agree is a statement (StepIsTransaction).
-/
namespace Sys2Proof.Machine

/-- The arm of R70 that a well-formed command in normal mode selects: the new lanes and the response. -/
def transactArm (e : Engine) (op arg : Nat) (p : List Byte) : Lanes × List Byte :=
  match op with
  | 0x01 => (zeroLanes, [])
  | 0x02 => (xorBlock e.lanes p, [])
  | 0x03 => (keccakF (xorBlock e.lanes p), [])
  | 0x04 => (keccakF (xorBlock e.lanes (pad p)), [])
  | 0x08 => (keccakF e.lanes, [])
  | 0x09 => (rnd e.lanes (Fin.ofNat 24 arg), [])
  | 0x0A => (theta e.lanes, [])
  | 0x0B => (rhoPi e.lanes, [])
  | 0x0C => (chi e.lanes, [])
  | 0x0D => (iota e.lanes (Fin.ofNat 24 arg), [])
  | 0x0E => (e.lanes, le64bytes (rc (Fin.ofNat 24 arg)))
  | 0x10 => (e.lanes, squeezeBytes e.lanes)
  | 0x11 => (e.lanes, le64bytes (readLane e.lanes (Fin.ofNat 25 arg)))
  | 0x12 => (writeLane e.lanes (Fin.ofNat 25 arg) (le64 p), [])
  | _ => (e.lanes, le32bytes (statusWord e.status))

/-- `Exec(S, W, P)` (R70). -/
def transact (e : Engine) (c : Command) : Engine × Tag × List Byte :=
  if e.status.fault = 1#1 then
    if c.word = 0x0000001F#32 ∧ c.payload.length = 0 then (e, .ok, le32bytes (statusWord e.status))
    else (e, .err, [])
  else
    match check c with
    | some cause => ({ e with status := ⟨1#1, cause.code, c.opc, c.arg⟩ }, .err, [])
    | none =>
      let r := transactArm e c.opc.toNat c.arg.toNat c.payload
      ({ e with lanes := r.1 }, .ok, r.2)

end Sys2Proof.Machine
end

