-- ==== Sys2Proof/Safety.lean ====
section
/-!
DEFINITION. The terms claims are stated in: normal mode, completion, legal states, safe runs
(spec/10_state.md R23, spec/60_exceptions.md R163, R171).
-/
namespace Sys2Proof.Machine

/-- The addressed engine is in normal mode: `STATUS.FAULT = 0` (R163). -/
abbrev State.normal (s : State) : Prop := s.engine.status.fault = 0#1

/-- Engine `j` of the platform, if there is one. -/
def State.engineAt (s : State) (j : Nat) : Option Engine := s.engines[j]?

/-- `s` after a command that answered `(OK, bytes)` and left the addressed engine's lanes at `a`: nothing else differs,
neither `STATUS`, nor another engine, nor the host's pending actions. -/
def State.answered (s : State) (a : Lanes) (bytes : List Byte) : State :=
  { s with engine := { s.engine with lanes := a }, responses := s.responses ++ [⟨s.index, .ok, bytes⟩] }

/-- The command completes: it answers `(OK, bytes)`, leaves lanes of which `P` holds, and changes nothing else. -/
def Completes (i : Instr) (s : State) (bytes : List Byte) (P : Lanes → Prop) : Prop :=
  ∃ a : Lanes, exec i s = .next (s.answered a bytes) ∧ P a

/-- The commands of a program given to the addressed engine one after the other. -/
def execAll : List Instr → State → Host.Outcome State Fault Refusal
  | [], s => .next s
  | i :: is, s =>
    match exec i s with
    | .next t => execAll is t
    | .fault r => .fault r
    | .refused r => .refused r

/-- `STATUS` is legal: with `FAULT = 0` the other fields are 0 (R23), and with `FAULT = 1` the recorded cause is one of
the four, and the recorded `OPC` and `ARG` are those of a command that can have it (R160). -/
def Status.legal (st : Status) : Bool :=
  if st.fault = 0#1 then st.cause == 0#8 && st.fopc == 0#8 && st.farg == 0#8
  else if st.cause = 0x01#8 then !assigned st.fopc.toNat
  else if st.cause = 0x02#8 then assigned st.fopc.toNat
  else if st.cause = 0x03#8 then assigned st.fopc.toNat && !argOK st.fopc.toNat st.farg.toNat
  else if st.cause = 0x04#8 then assigned st.fopc.toNat && argOK st.fopc.toNat st.farg.toNat
  else false

/-- Every engine's `STATUS` is legal. -/
def State.legal (s : State) : Prop := ∀ e ∈ s.engines, e.status.legal = true

/-- A run of `k` steps is safe: it stops at no fault of the model, and no engine is in faulted mode at its end (R171). -/
def SafeRun (k : Nat) (s : State) : Prop :=
  ∃ t, Host.Core.run Sys2Proof.core k s = .next t ∧ ∀ e ∈ t.engines, e.status.fault = 0#1

end Sys2Proof.Machine
end

