-- ==== Sys2Proof/Certificates/Slice0/Obligations.lean ====
section
/-!
DEFINITION. The statements for the provers. Each docstring names the rules of spec/ it formalises.
`State.answered`, `Completes` and `execAll` (Safety.lean) spell out a whole next state, so a statement in their terms is
the completion, the result and the frame of a command at once. How State holds the host's side (`pending`, `responses`)
and the engines (`select`) is the model's own representation (log entries 2 to 4); no statement rests on a value of it.
-/
open Sys2Proof Sys2Proof.Machine

/-! ### Decoding and encoding -/

/-- R70: a command that decodes runs. The host action's command is taken from the head of the pending actions, the engine
it is addressed to becomes the addressed one (`select`), and `step` is `exec` of the decoded instruction. -/
def Obligations.StepRunsDecodedCommand : Prop :=
  ∀ (s s1 : State) (e : Nat) (c : Command) (rest : List HostAction) (i : Instr),
    s.pending = ⟨e, .command c⟩ :: rest → select e s = some s1 → decode c = .ok i →
      step s = exec i { s1 with pending := rest }

/-- R30: selecting engine `e` changes no engine, no pending action and no response; it fails exactly where the platform
has no engine `e`. -/
def Obligations.SelectChangesNoEngine : Prop :=
  ∀ (e : Nat) (s : State),
    (e < s.engines.length → ∃ s1, select e s = some s1 ∧ s1.engines = s.engines ∧ s1.index = e ∧
      s.engineAt e = some s1.engine ∧ s1.pending = s.pending ∧ s1.responses = s.responses) ∧
    (s.engines.length ≤ e → select e s = none)

/-- R74: the encoding examples, word for word, with payloads of the required length. -/
def Obligations.HandWrittenWordsDecode : Prop :=
  decode ⟨0x00000001#32, []⟩ = .ok .init ∧
  decode ⟨0x00000304#32, [0x61#8, 0x62#8, 0x63#8]⟩ = .ok (.absorbf 3 [0x61#8, 0x62#8, 0x63#8]) ∧
  (∀ p : List Byte, p.length = 135 → decode ⟨0x00008704#32, p⟩ = .ok (.absorbf 135 p)) ∧
  decode ⟨0x00001709#32, []⟩ = .ok (.round 23) ∧
  decode ⟨0x0000050D#32, []⟩ = .ok (.iota 5) ∧
  decode ⟨0x0000000E#32, []⟩ = .ok (.rdrc 0) ∧
  decode ⟨0x00001811#32, []⟩ = .ok (.rdlane 24) ∧ laneIndex 4 4 = 24 ∧
  decode ⟨0x00000012#32, [1#8, 0#8, 0#8, 0#8, 0#8, 0#8, 0#8, 0#8]⟩ =
    .ok (.wrlane 0 [1#8, 0#8, 0#8, 0#8, 0#8, 0#8, 0#8, 0#8]) ∧
  decode ⟨0x0000001F#32, []⟩ = .ok .rdstatus ∧
  decode ⟨0x00000000#32, []⟩ = .error .illegalOpcode ∧
  decode ⟨0x00000109#32, []⟩ = .ok (.round 1) ∧
  decode ⟨0x00001809#32, []⟩ = .error .argRange

/-- R61, R64: decoding an encoded well-formed instruction gives it back, for every instruction and every operand. -/
def Obligations.DecodeOfEncode : Prop :=
  ∀ i : Instr, i.wellFormed = true → decode (encode i) = .ok i

/-- R61, R64: every command that decodes is the encoding of its instruction, and the instruction is well formed: no bit
of a command word is dropped. -/
def Obligations.EncodeOfDecode : Prop :=
  ∀ (c : Command) (i : Instr), decode c = .ok i → encode i = c ∧ i.wellFormed = true

/-- R69: the validity check, cause by cause in its order, and the causes' codes. -/
def Obligations.FirstCauseIsReported : Prop :=
  (∀ c : Command,
    let op := c.opc.toNat
    let arg := c.arg.toNat
    let known : Prop := op ∈ [0x01, 0x02, 0x03, 0x04, 0x08, 0x09, 0x0A, 0x0B, 0x0C, 0x0D, 0x0E, 0x10, 0x11, 0x12, 0x1F]
    let argFits : Prop :=
      if op = 0x04 then arg ≤ 135
      else if op ∈ [0x09, 0x0D, 0x0E] then arg ≤ 23
      else if op ∈ [0x11, 0x12] then arg ≤ 24
      else arg = 0
    let required : Nat := if op ∈ [0x02, 0x03] then 136 else if op = 0x04 then arg else if op = 0x12 then 8 else 0
    (¬ known → check c = some .illegalOpcode) ∧
    (known ∧ c.rsv ≠ 0#16 → check c = some .reservedBits) ∧
    (known ∧ c.rsv = 0#16 ∧ ¬ argFits → check c = some .argRange) ∧
    (known ∧ c.rsv = 0#16 ∧ argFits ∧ c.payload.length ≠ required → check c = some .payloadLength) ∧
    (known ∧ c.rsv = 0#16 ∧ argFits ∧ c.payload.length = required → check c = none)) ∧
  Cause.code .illegalOpcode = 0x01#8 ∧ Cause.code .reservedBits = 0x02#8 ∧
  Cause.code .argRange = 0x03#8 ∧ Cause.code .payloadLength = 0x04#8

/-- R69, R70: the decoder rejects a command exactly for the cause the check reports, and accepts every other one. -/
def Obligations.DecoderFollowsTheCheck : Prop :=
  ∀ c : Command,
    (∀ cause, check c = some cause ↔ decode c = .error cause) ∧
    (check c = none ↔ ∃ i, decode c = .ok i ∧ i.opcode = c.opc ∧ i.arg = c.arg ∧ i.payload = c.payload)

/-- R62, R71: on a byte-serial channel the word goes first, `OPC` first, then the payload; the front end reads the same
command back; and the first two bytes of a well-formed command give the length of the whole. -/
def Obligations.SerialFormIsReadBack : Prop :=
  ∀ c : Command,
    serialize c = [c.opc, c.arg, c.word.extractLsb' 16 8, c.word.extractLsb' 24 8] ++ c.payload ∧
    deserialize (serialize c) = some c ∧
    (check c = none → (serialize c).length = serialLength c.opc c.arg)

/-! ### Bytes, lanes and rotation -/

/-- R6: the bytes of a lane, least significant first; `le64` is the inverse; `le32bytes` is the same with 4 bytes. -/
def Obligations.LaneBytesAreLittleEndian : Prop :=
  (∀ (v : Lane) (k : Nat), k < 8 → (le64bytes v)[k]? = some (v.extractLsb' (8 * k) 8)) ∧
  (∀ v : Lane, (le64bytes v).length = 8 ∧ le64 (le64bytes v) = v) ∧
  (∀ bs : List Byte, bs.length = 8 → le64bytes (le64 bs) = bs) ∧
  (∀ (v : Word) (k : Nat), k < 4 → (le32bytes v)[k]? = some (v.extractLsb' (8 * k) 8)) ∧
  (∀ v : Word, (le32bytes v).length = 4)

/-- R5: bit `i` of `rotl(a, d)` is bit `(i - d) mod 64` of `a`, and `rotl(a, 0) = a`. R100: every offset of the traversal
is in 1..63. -/
def Obligations.RotateLeftMovesBits : Prop :=
  (∀ (a : Lane) (d i : Nat), d < 64 → i < 64 → (rotl a d).getLsbD i = a.getLsbD ((i + (64 - d)) % 64)) ∧
  (∀ a : Lane, rotl a 0 = a) ∧
  (∀ t, t < 24 → 1 ≤ rhoOffset t ∧ rhoOffset t ≤ 63)

/-! ### The sponge commands -/

/-- R83: INIT sets every lane to zero, answers `(OK, [])` and changes nothing else. -/
def Obligations.InitClearsEveryLane : Prop :=
  ∀ s : State, s.normal → Completes .init s [] fun a => ∀ k, readLane a k = 0#64

/-- R82, R41: XORIN XORs payload byte `8j + t` into byte `t` of lane `j`, for `j = 0..16`, and leaves lanes 17..24. -/
def Obligations.XorinXorsTheBlock : Prop :=
  ∀ (s : State) (p : List Byte), s.normal → p.length = 136 →
    Completes (.xorin p) s [] fun a =>
      (∀ (j : Fin 25) (t : Nat), j.val < 17 → t < 8 →
        (readLane a j).extractLsb' (8 * t) 8 =
          (readLane s.engine.lanes j).extractLsb' (8 * t) 8 ^^^ p.getD (8 * j.val + t) 0#8) ∧
      (∀ j : Fin 25, 17 ≤ j.val → readLane a j = readLane s.engine.lanes j)

/-- R84, R46: XORIN of the same block twice restores the engine. -/
def Obligations.XorinTwiceRestores : Prop :=
  ∀ (s : State) (p : List Byte), s.normal → p.length = 136 →
    ∃ t u, exec (.xorin p) s = .next t ∧ exec (.xorin p) t = .next u ∧ u.engine = s.engine

/-- R85: ABSORB leaves the lanes that XORIN of the block followed by PERMUTE leaves. -/
def Obligations.AbsorbIsXorinThenPermute : Prop :=
  ∀ (s : State) (p : List Byte), s.normal → p.length = 136 →
    ∃ u, execAll [.xorin p, .permute] s = .next u ∧
      exec (.absorb p) s = .next (s.answered u.engine.lanes [])

/-- R86: ABSORBF of the last `n` bytes of a message is ABSORB of these bytes padded to one block: with 0x86 for `n = 135`,
else with 0x06, `134 - n` zero bytes and 0x80. -/
def Obligations.AbsorbfAbsorbsOnePaddedBlock : Prop :=
  ∀ (s : State) (n : Fin 136) (p : List Byte), s.normal → p.length = n.val →
    ∃ a, exec (.absorbf n p) s = .next (s.answered a []) ∧
      exec (.absorb (if n.val = 135 then p ++ [0x86#8]
        else p ++ [0x06#8] ++ List.replicate (134 - n.val) 0x00#8 ++ [0x80#8])) s = .next (s.answered a [])

/-- R81: the five properties of the padding. -/
def Obligations.PaddingFillsTheLastBlock : Prop :=
  ∀ m : List Byte,
    let q := 136 - m.length % 136
    (pad m).length = m.length + q ∧ 136 ∣ (pad m).length ∧ m.length < (pad m).length ∧
    (m.length % 136 = 0 → q = 136) ∧
    (pad m).take m.length = m ∧
    (∃ b : Byte, (pad m).getLast? = some b ∧ (b = 0x80#8 ∨ b = 0x86#8) ∧ b.getLsbD 7 = true) ∧
    (q = 2 → (pad m).drop m.length = [0x06#8, 0x80#8]) ∧
    (q = 1 → (pad m).drop m.length = [0x86#8]) ∧
    0x86#8 = 0x06#8 ||| 0x80#8

/-- R140: SQUEEZE answers the little-endian bytes of lanes 0 to 3 and changes nothing: 32 bytes, no capacity lane. -/
def Obligations.SqueezeAnswersLanesZeroToThree : Prop :=
  ∀ s : State, s.normal →
    exec .squeeze s = .next (s.answered s.engine.lanes
      (le64bytes (readLane s.engine.lanes 0) ++ le64bytes (readLane s.engine.lanes 1) ++
        le64bytes (readLane s.engine.lanes 2) ++ le64bytes (readLane s.engine.lanes 3)))

/-! ### The permutation commands -/

/-- R101: THETA, lane by lane: every parity and every lane is the input's. -/
def Obligations.ThetaMixesColumns : Prop :=
  ∀ s : State, s.normal →
    Completes .theta s [] fun a => ∀ x y : Fin 5,
      let old := laneAt s.engine.lanes
      let c : Fin 5 → Lane := fun x => old x 0 ^^^ old x 1 ^^^ old x 2 ^^^ old x 3 ^^^ old x 4
      laneAt a x y = old x y ^^^ (c (x - 1) ^^^ rotl (c (x + 1)) 1)

/-- R103: RHOPI's traversal is the closed form with the table of rho offsets, and its orbit is the table of steps
(source lane, destination lane, `(t+1)(t+2)/2`, offset). -/
def Obligations.RhopiIsTheClosedForm : Prop :=
  (∀ s : State, s.normal →
    Completes .rhopi s [] fun a => ∀ x y : Fin 5,
      laneAt a y (2 * x + 3 * y) = rotl (laneAt s.engine.lanes x y)
        ((#v[0, 1, 62, 28, 27, 36, 44, 6, 55, 20, 3, 10, 43, 25, 39, 41, 45, 15, 21, 8, 18, 2, 61, 56, 14] :
          Vector Nat 25).get (laneIndex x y))) ∧
  (List.range 24).map (fun t =>
      let at_ (n : Nat) : Fin 5 × Fin 5 := (List.range n).foldl (fun p _ => piNext p.1 p.2) (1, 0)
      ((laneIndex (at_ t).1 (at_ t).2).val, (laneIndex (at_ (t + 1)).1 (at_ (t + 1)).2).val,
        (t + 1) * (t + 2) / 2, rhoOffset t)) =
    [(1, 10, 1, 1), (10, 7, 3, 3), (7, 11, 6, 6), (11, 17, 10, 10), (17, 18, 15, 15), (18, 3, 21, 21),
     (3, 5, 28, 28), (5, 16, 36, 36), (16, 8, 45, 45), (8, 21, 55, 55), (21, 24, 66, 2), (24, 4, 78, 14),
     (4, 15, 91, 27), (15, 23, 105, 41), (23, 19, 120, 56), (19, 13, 136, 8), (13, 12, 153, 25),
     (12, 2, 171, 43), (2, 20, 190, 62), (20, 14, 210, 18), (14, 22, 231, 39), (22, 9, 253, 61),
     (9, 6, 276, 20), (6, 1, 300, 44)]

/-- R104: CHI, lane by lane: every lane of a row is computed from the row before the command. -/
def Obligations.ChiCombinesRows : Prop :=
  ∀ s : State, s.normal →
    Completes .chi s [] fun a => ∀ x y : Fin 5,
      let old := laneAt s.engine.lanes
      laneAt a x y = old x y ^^^ (~~~(old (x + 1) y) &&& old (x + 2) y)

/-- R107: IOTA XORs `RC[i]` into lane (0,0) and leaves every other lane. -/
def Obligations.IotaXorsOneLane : Prop :=
  ∀ (s : State) (i : Fin 24), s.normal →
    Completes (.iota i) s [] fun a => ∀ x y : Fin 5,
      laneAt a x y = if x = 0 ∧ y = 0 then laneAt s.engine.lanes 0 0 ^^^ rc i else laneAt s.engine.lanes x y

/-- R108: ROUND `i` is THETA, RHOPI, CHI and IOTA `i`, in this order. -/
def Obligations.RoundIsFourSteps : Prop :=
  ∀ (s : State) (i : Fin 24), s.normal →
    ∃ u, execAll [.theta, .rhopi, .chi, .iota i] s = .next u ∧
      exec (.round i) s = .next (s.answered u.engine.lanes [])

/-- R109: PERMUTE is ROUND 0, ROUND 1, ..., ROUND 23, all of them in this order. -/
def Obligations.PermuteIsTwentyFourRounds : Prop :=
  ∀ s : State, s.normal →
    ∃ u, execAll ((List.finRange 24).map .round) s = .next u ∧
      exec .permute s = .next (s.answered u.engine.lanes [])

/-- R106: the shift register gives exactly the table of R105, and no other bit than 0, 1, 3, 7, 15, 31 and 63 of a round
constant can be 1. -/
def Obligations.RoundConstantsComeFromTheLfsr : Prop :=
  ∀ i : Fin 24, rc i = rcFromLfsr i ∧ rc i &&& ~~~0x800000008000808B#64 = 0#64

/-- R116: RDRC answers the bytes of `RC[i]` and changes nothing. -/
def Obligations.RdrcAnswersTheConstant : Prop :=
  ∀ (s : State) (i : Fin 24), s.normal →
    exec (.rdrc i) s = .next (s.answered s.engine.lanes (le64bytes (rc i)))

/-! ### Lane access and status -/

/-- R142: RDLANE answers the bytes of lane `k`, capacity lanes included, and changes nothing. -/
def Obligations.RdlaneAnswersTheLane : Prop :=
  ∀ (s : State) (k : Fin 25), s.normal →
    exec (.rdlane k) s = .next (s.answered s.engine.lanes (le64bytes (readLane s.engine.lanes k)))

/-- R143: WRLANE replaces lane `k`, leaves every other lane, and RDLANE then answers the payload. -/
def Obligations.WrlaneIsReadBack : Prop :=
  ∀ (s : State) (k : Fin 25) (p : List Byte), s.normal → p.length = 8 →
    ∃ a, exec (.wrlane k p) s = .next (s.answered a []) ∧
      (∀ t, t < 8 → (readLane a k).extractLsb' (8 * t) 8 = p.getD t 0#8) ∧
      (∀ j, j ≠ k → readLane a j = readLane s.engine.lanes j) ∧
      exec (.rdlane k) (s.answered a []) = .next ((s.answered a []).answered a p)

/-- R144, R23: RDSTATUS answers in every mode, changes nothing, and gives `FAULT` with the reserved bits 0, `CAUSE`,
`FOPC` and `FARG`, one byte each. -/
def Obligations.RdstatusAnswersInEveryMode : Prop :=
  ∀ s : State,
    exec .rdstatus s = .next (s.answered s.engine.lanes
      [0#7 ++ s.engine.status.fault, s.engine.status.cause, s.engine.status.fopc, s.engine.status.farg])

/-- R46: the four reading commands change no state of the engine, and the same read again answers the same bytes. -/
def Obligations.ReadsAreIdempotent : Prop :=
  ∀ (s : State) (i : Instr), s.normal → (i = .squeeze ∨ i = .rdstatus ∨ (∃ k, i = .rdlane k) ∨ ∃ k, i = .rdrc k) →
    ∃ bytes, exec i s = .next (s.answered s.engine.lanes bytes) ∧
      exec i (s.answered s.engine.lanes bytes) = .next ((s.answered s.engine.lanes bytes).answered s.engine.lanes bytes)

/-- R22: which lanes a command can change, for every command, operand and state. -/
def Obligations.LanesChangeOnlyWhereWritten : Prop :=
  ∀ (i : Instr) (s t : State) (k : Fin 25), exec i s = .next t →
    readLane t.engine.lanes k ≠ readLane s.engine.lanes k →
      match i with
      | .init | .absorb _ | .absorbf _ _ | .permute | .round _ | .theta | .chi => True
      | .rhopi => k ≠ 0
      | .xorin _ => k.val < 17
      | .iota _ => k = 0
      | .wrlane j _ => k = j
      | .squeeze | .rdlane _ | .rdrc _ | .rdstatus => False

/-! ### Faults -/

/-- R161, R162: in normal mode a malformed command records its cause, `OPC` and `ARG`, is answered `(ERR, [])`, and
changes nothing else: no lane, no other engine, no pending action. In faulted mode it records nothing. -/
def Obligations.MalformedCommandFaults : Prop :=
  ∀ (s s1 : State) (e : Nat) (c : Command) (rest : List HostAction) (cause : Cause),
    s.pending = ⟨e, .command c⟩ :: rest → select e s = some s1 → check c = some cause →
      (s1.normal → step s = .next
        { s1 with
          engine := { s1.engine with
            status := { fault := 1#1, cause := cause.code,
                        fopc := c.word.extractLsb' 0 8, farg := c.word.extractLsb' 8 8 } }
          pending := rest
          responses := s1.responses ++ [⟨e, .err, []⟩] }) ∧
      (¬ s1.normal → ∃ t, step s = .next t ∧ t.engine = s1.engine)

/-- R68, R160: a payload of the wrong length faults with PAYLOAD_LENGTH in the command that takes it: XORIN, ABSORB,
ABSORBF and WRLANE. -/
def Obligations.WrongPayloadLengthFaults : Prop :=
  ∀ (i : Instr) (s : State), s.normal →
    (match i with
      | .xorin p => p.length ≠ 136
      | .absorb p => p.length ≠ 136
      | .absorbf n p => p.length ≠ n.val
      | .wrlane _ p => p.length ≠ 8
      | _ => False) →
    exec i s = .next
      { s with
        engine := { s.engine with status := { fault := 1#1, cause := 0x04#8, fopc := i.opcode, farg := i.arg } }
        responses := s.responses ++ [⟨s.index, .err, []⟩] }

/-- R163: in faulted mode every command but the exact RDSTATUS, well formed or not, is answered `(ERR, [])` with no effect
and no second fault; the exact RDSTATUS is answered `(OK, STATUS)`; and the engine stays as it is either way, so no
command leaves faulted mode. -/
def Obligations.FaultedModeRefuses : Prop :=
  ∀ (s s1 : State) (e : Nat) (c : Command) (rest : List HostAction),
    s.pending = ⟨e, .command c⟩ :: rest → select e s = some s1 → s1.engine.status.fault = 1#1 →
      step s = .next
        { s1 with
          pending := rest
          responses := s1.responses ++
            [if c = ⟨0x0000001F#32, []⟩ then ⟨e, .ok, le32bytes (statusWord s1.engine.status)⟩ else ⟨e, .err, []⟩] }

/-- R24: `STATUS` of an engine changes only in a reset of that engine, or in normal mode by recording the fault of a
command addressed to it. So it keeps its value from the first fault until reset. -/
def Obligations.StatusChangesOnlyByFaultOrReset : Prop :=
  ∀ (s t : State) (j : Nat) (e e' : Engine),
    step s = .next t → s.engineAt j = some e → t.engineAt j = some e' → e'.status ≠ e.status →
      (∃ rest, s.pending = ⟨j, .reset⟩ :: rest ∧ e'.status = Status.reset) ∨
      (e.status.fault = 0#1 ∧ ∃ c cause rest, s.pending = ⟨j, .command c⟩ :: rest ∧ check c = some cause ∧
        e'.status = faultStatus cause c)

/-- R23, R160: every step keeps every engine's `STATUS` legal: all zero while no fault is recorded, else the cause of a
command with that `OPC` and `ARG`. -/
def Obligations.EveryStepKeepsStatusLegal : Prop :=
  ∀ s t : State, s.legal → step s = .next t → t.legal

/-- R23, R29: `STATUS` is legal after reset, on a platform of any number of engines. -/
def Obligations.ResetIsLegal : Prop :=
  ∀ n : Nat, (State.resetWith n).legal

/-- R160: with every engine in normal mode, a run of resets and well-formed commands, in any order, is safe: no step
stops, and no engine is faulted at its end. -/
def Obligations.WellFormedCommandsNeverFault : Prop :=
  ∀ s : State, (∀ e ∈ s.engines, e.status.fault = 0#1) →
    (∀ act ∈ s.pending, act.engine < s.engines.length ∧
      (act.event = .reset ∨ ∃ c, act.event = .command c ∧ check c = none)) →
    SafeRun s.pending.length s

/-! ### Reset, the host and several engines -/

/-- R29: after reset every engine's lanes are 0 and its `STATUS` is 0, on a platform of any number of engines. -/
def Obligations.ResetValues : Prop :=
  ∀ n : Nat, (State.resetWith n).engines.length = n + 1 ∧
    ∀ e ∈ (State.resetWith n).engines, (∀ k, readLane e.lanes k = 0#64) ∧ statusWord e.status = 0x00000000#32

/-- R180: a reset sets the addressed engine's lanes and `STATUS` to 0, from either mode, and produces no response; the
other engines and the later actions stay. -/
def Obligations.ResetEventClearsTheEngine : Prop :=
  ∀ (s s1 : State) (e : Nat) (rest : List HostAction),
    s.pending = ⟨e, .reset⟩ :: rest → select e s = some s1 →
      ∃ g : Engine, step s = .next { s1 with engine := g, pending := rest } ∧
        (∀ k, readLane g.lanes k = 0#64) ∧ statusWord g.status = 0x00000000#32

/-- R54: with no host action pending, a step changes nothing. That such a step answers a next state, and no stop, is the
model's reading (log entry 7). -/
def Obligations.EngineNeverActsOnItsOwn : Prop :=
  ∀ s : State, s.pending = [] → step s = .next s

/-- R10: a step always completes; the one stop of the model is a host action addressed to an engine the platform does not
have, which no rule describes: the model's choice (log entry 5). -/
def Obligations.EveryCommandCompletes : Prop :=
  ∀ s : State,
    (∃ t, step s = .next t) ∨
    ∃ act rest, s.pending = act :: rest ∧ s.engines.length ≤ act.engine ∧ step s = .fault .noSuchEngine

/-- R60, R64: a command gets exactly one response. Its tag is `ERR` exactly when the command is refused or faults, and
then it is empty; else its length is the opcode's. -/
def Obligations.OneResponsePerCommand : Prop :=
  ∀ (s s1 : State) (e : Nat) (c : Command) (rest : List HostAction),
    s.pending = ⟨e, .command c⟩ :: rest → select e s = some s1 →
      ∃ t tag bytes, step s = .next t ∧ t.responses = s.responses ++ [⟨e, tag, bytes⟩] ∧
        (tag = .err ↔ (s1.engine.status.fault = 1#1 ∧ c ≠ ⟨0x0000001F#32, []⟩) ∨ ∃ cause, check c = some cause) ∧
        (tag = .err → bytes = []) ∧
        (tag = .ok → bytes.length =
          if c.opc = 0x10#8 then 32
          else if c.opc = 0x0E#8 ∨ c.opc = 0x11#8 then 8
          else if c.opc = 0x1F#8 then 4 else 0)

/-- R48: the host's actions take effect in the order of issue: a step takes the first of them, and no response given
before is changed. -/
def Obligations.ActionsAreTakenInOrder : Prop :=
  ∀ (s t : State) (act : HostAction) (rest : List HostAction),
    s.pending = act :: rest → step s = .next t →
      t.pending = rest ∧ s.responses <+: t.responses ∧ t.responses.length ≤ s.responses.length + 1

/-- R30, R50: an action addressed to one engine changes no other engine, and no engine comes or goes. -/
def Obligations.OtherEnginesAreUntouched : Prop :=
  ∀ (s t : State) (act : HostAction) (rest : List HostAction) (j : Nat),
    s.pending = act :: rest → step s = .next t →
      t.engines.length = s.engines.length ∧ (j ≠ act.engine → t.engineAt j = s.engineAt j)

/-- R30, R45: what a command does depends on the addressed engine alone, and it changes that engine and gives one
response, nothing else: two platforms that agree on it, and on nothing more, get the same engine, tag and bytes. -/
def Obligations.CommandSeesOnlyItsEngine : Prop :=
  ∀ (i : Instr) (s s' : State), s.engine = s'.engine →
    ∃ g tag bytes,
      exec i s = .next { s with engine := g, responses := s.responses ++ [⟨s.index, tag, bytes⟩] } ∧
      exec i s' = .next { s' with engine := g, responses := s'.responses ++ [⟨s'.index, tag, bytes⟩] }

/-- R70: one step of an engine is `Exec(S, W, P)` as the rule writes it (`transact`), for every state, word and
payload. -/
def Obligations.StepIsTransaction : Prop :=
  ∀ (s s1 : State) (e : Nat) (c : Command) (rest : List HostAction),
    s.pending = ⟨e, .command c⟩ :: rest → select e s = some s1 →
      step s = .next
        { s1 with
          engine := (transact s1.engine c).1
          pending := rest
          responses := s1.responses ++ [⟨e, (transact s1.engine c).2.1, (transact s1.engine c).2.2⟩] }

/-- R73, R87: the commands of `HASH`, issued to an engine in normal mode whatever its lanes hold, leave
`Absorb(0, pad(M))` in the lanes and answer `Squeeze` of it last: the SHA3-256 of a message of any length. -/
def Obligations.HashCommandsComputeSha3 : Prop :=
  ∀ (s : State) (m : List Byte) (rest : List HostAction),
    s.normal → s.pending = issue s.index (hashProgram m) ++ rest →
      ∃ t : State, Host.Core.run Sys2Proof.core (hashProgram m).length s = .next t ∧
        t.engine.lanes = absorbMessage zeroLanes (pad m) ∧ t.engine.status = s.engine.status ∧
        t.before = s.before ∧ t.after = s.after ∧ t.pending = rest ∧
        t.responses = s.responses ++ List.replicate (m.length / 136 + 2) ⟨s.index, .ok, []⟩ ++
          [⟨s.index, .ok, squeezeBytes (absorbMessage zeroLanes (pad m))⟩]

/-- R73: the commands of `RDSTATE` answer the 25 lanes in order and change no engine. -/
def Obligations.RdstateAnswersEveryLane : Prop :=
  ∀ s : State, s.normal →
    execAll rdstateProgram s = .next
      { s with responses := s.responses ++
        (List.finRange 25).map fun k => ⟨s.index, .ok, le64bytes (readLane s.engine.lanes k)⟩ }
end

