-- ==== Sys2Proof/Laws/Decode.lean ====
section
/-!
SUPPORT. The fields of an encoded command, the check of an encoded command, and what the decoder answers.
-/
namespace Sys2Proof

@[simp] theorem opc_commandWord (op arg : BitVec 8) (p : List Byte) :
    Command.opc ⟨commandWord op arg, p⟩ = op := by
  unfold Command.opc commandWord
  ext i hi
  simp only [BitVec.getElem_extractLsb', BitVec.getLsbD_append, hi, Nat.zero_add]
  simp [hi]

@[simp] theorem arg_commandWord (op arg : BitVec 8) (p : List Byte) :
    Command.arg ⟨commandWord op arg, p⟩ = arg := by
  unfold Command.arg commandWord
  ext i hi
  have h1 : ¬ 8 + i < 8 := by omega
  simp only [BitVec.getElem_extractLsb', BitVec.getLsbD_append, h1, if_false]
  simp [hi]

@[simp] theorem rsv_commandWord (op arg : BitVec 8) (p : List Byte) :
    Command.rsv ⟨commandWord op arg, p⟩ = 0#16 := by
  unfold Command.rsv commandWord
  ext i hi
  have h1 : ¬ 16 + i < 8 := by omega
  have h2 : ¬ 16 + i - 8 < 8 := by omega
  simp only [BitVec.getElem_extractLsb', BitVec.getLsbD_append, h1, h2, if_false]
  simp

/-- A command word is its three fields (R61). -/
theorem word_fields (c : Command) : c.word = c.rsv ++ c.arg ++ c.opc := by
  unfold Command.rsv Command.arg Command.opc
  refine BitVec.eq_of_getLsbD_eq fun i hi => ?_
  simp only [BitVec.getLsbD_append, BitVec.getLsbD_extractLsb', Nat.zero_add]
  split
  · simp [*]
  · split
    · rw [Nat.add_sub_of_le (by omega)]
      simp [*]
    · rw [show 16 + (i - 8 - 8) = i by omega]
      simp [show i - 8 - 8 < 16 by omega]

/-- The check of an instruction's own command can fail only on the payload length. -/
theorem check_encode (i : Instr) :
    check (encode i) = if i.wellFormed then none else some .payloadLength := by
  have hn : ∀ n : Fin 136, n.val % 256 = n.val := fun n => Nat.mod_eq_of_lt (by omega)
  have hi : ∀ n : Fin 24, n.val % 256 = n.val := fun n => Nat.mod_eq_of_lt (by omega)
  have hk : ∀ n : Fin 25, n.val % 256 = n.val := fun n => Nat.mod_eq_of_lt (by omega)
  have hn' : ∀ n : Fin 136, n.val ≤ 135 := fun n => by omega
  have hi' : ∀ n : Fin 24, n.val ≤ 23 := fun n => by omega
  have hk' : ∀ n : Fin 25, n.val ≤ 24 := fun n => by omega
  cases i <;>
    simp [check, encode, assigned, argOK, plen, Instr.opcode, Instr.arg, Instr.payload,
      Instr.wellFormed, hn, hi, hk, hn', hi', hk']

theorem check_encode_of_wellFormed {i : Instr} (h : i.wellFormed = true) : check (encode i) = none := by
  simp [check_encode, h]

/-- A command whose check passes has an instruction. -/
theorem instrOf_of_check {c : Command} (h : check c = none) :
    ∃ i, instrOf c.opc.toNat c.arg.toNat c.payload = some i := by
  unfold check at h
  split at h
  · cases h
  split at h
  · cases h
  split at h
  · cases h
  rename_i ha _ hr
  generalize c.opc.toNat = op at *
  generalize c.arg.toNat = a at *
  simp only [assigned, List.contains_cons, List.contains_nil, Bool.or_false, Bool.or_eq_true,
    Bool.not_eq_false, beq_iff_eq] at ha
  rcases ha with h | h | h | h | h | h | h | h | h | h | h | h | h | h | h <;> subst h <;>
    simp [instrOf, argOK] at hr ⊢ <;> simp_all [Nat.lt_succ_iff]

/-- The decoder rejects a command exactly for the cause the check gives. -/
theorem decode_eq_error_iff (c : Command) (cause : Cause) :
    decode c = .error cause ↔ check c = some cause := by
  unfold decode
  cases h : check c with
  | some cause' => simp
  | none =>
    obtain ⟨i, hi⟩ := instrOf_of_check h
    simp [hi]

/-- The decoder answers an instruction exactly where the check passes and `instrOf` has it. -/
theorem decode_eq_ok_iff (c : Command) (i : Instr) :
    decode c = .ok i ↔ check c = none ∧ instrOf c.opc.toNat c.arg.toNat c.payload = some i := by
  unfold decode
  cases h : check c with
  | some cause => simp
  | none =>
    obtain ⟨j, hj⟩ := instrOf_of_check h
    simp [hj]

end Sys2Proof
end

