-- ==== Sys2Proof/Laws/Operands.lean ====
section
/-!
SUPPORT. Reading and writing lanes, and the coordinates of a flat index.
-/
namespace Sys2Proof.Machine

/-- Lane arrays are equal if every lane is. -/
theorem lanes_ext {a b : Lanes} (h : ∀ k, readLane a k = readLane b k) : a = b := by
  refine Vector.ext fun i hi => ?_
  exact h ⟨i, hi⟩

@[simp] theorem readLane_zeroLanes (k : Fin 25) : readLane zeroLanes k = 0#64 := by
  simp [readLane, zeroLanes, Vector.get]

theorem readLane_writeLane (a : Lanes) (k j : Fin 25) (v : Lane) :
    readLane (writeLane a k v) j = if j = k then v else readLane a j := by
  simp only [readLane, writeLane, Vector.get_eq_getElem, Vector.getElem_set, Fin.ext_iff, eq_comm]

@[simp] theorem readLane_writeLane_same (a : Lanes) (k : Fin 25) (v : Lane) :
    readLane (writeLane a k v) k = v := by
  simp [readLane_writeLane]

theorem readLane_writeLane_ne (a : Lanes) {k j : Fin 25} (v : Lane) (h : j ≠ k) :
    readLane (writeLane a k v) j = readLane a j := by
  simp [readLane_writeLane, h]

@[simp] theorem readLane_lanesOf (f : Fin 5 → Fin 5 → Lane) (k : Fin 25) :
    readLane (lanesOf f) k = f (laneX k) (laneY k) := by
  simp [readLane, lanesOf, Vector.get_eq_getElem]

@[simp] theorem laneX_laneIndex (x y : Fin 5) : laneX (laneIndex x y) = x := by
  simp only [laneX, laneIndex, Fin.ext_iff]
  omega

@[simp] theorem laneY_laneIndex (x y : Fin 5) : laneY (laneIndex x y) = y := by
  simp only [laneY, laneIndex, Fin.ext_iff]
  omega

@[simp] theorem laneIndex_laneX_laneY (k : Fin 25) : laneIndex (laneX k) (laneY k) = k := by
  simp only [laneX, laneY, laneIndex, Fin.ext_iff]
  omega

@[simp] theorem laneAt_lanesOf (f : Fin 5 → Fin 5 → Lane) (x y : Fin 5) :
    laneAt (lanesOf f) x y = f x y := by
  simp [laneAt]

/-- A lane of the block-XOR: a rate lane takes the block's lane, a capacity lane is unchanged. -/
theorem readLane_xorBlock (a : Lanes) (b : List Byte) (k : Fin 25) :
    readLane (xorBlock a b) k = if k.val < 17 then readLane a k ^^^ blockLane b k.val else readLane a k := by
  simp [readLane, xorBlock, Vector.get_eq_getElem]

/-- Bit `i` of a lane assembled from bytes is bit `i mod 8` of byte `i div 8`. -/
theorem getLsbD_le64 (bs : List Byte) (i : Nat) (hi : i < 64) :
    (le64 bs).getLsbD i = (bs.getD (i / 8) 0#8).getLsbD (i % 8) := by
  induction bs generalizing i with
  | nil => simp [le64]
  | cons b bs ih =>
    have hcons : le64 (b :: bs) = b.setWidth 64 ||| (le64 bs <<< 8) := rfl
    rw [hcons]
    simp only [BitVec.getLsbD_or, BitVec.getLsbD_setWidth, BitVec.getLsbD_shiftLeft, hi, decide_true, Bool.true_and]
    by_cases h : i < 8
    · simp [h, Nat.div_eq_of_lt h, Nat.mod_eq_of_lt h]
    · have hd : i / 8 = (i - 8) / 8 + 1 := by omega
      have hm : (i - 8) % 8 = i % 8 := by omega
      rw [hd, List.getD_cons_succ, ih _ (by omega)]
      simp [h, hm, BitVec.getLsbD_of_ge b i (by omega)]

@[simp] theorem length_le64bytes (v : Lane) : (le64bytes v).length = 8 := by
  simp [le64bytes]

@[simp] theorem length_le32bytes (v : Word) : (le32bytes v).length = 4 := rfl

end Sys2Proof.Machine
end

