-- ==== Sys2Proof/Laws/Keccak.lean ====
section
/-!
SUPPORT. The rho and pi traversal unrolled: since every displaced lane is read before it is written, each step writes a
lane of the INPUT, rotated, at the next place of the orbit.
-/
namespace Sys2Proof.Machine

/-- One step, at a place of the orbit whose destination still holds the input's lane. -/
theorem rhoPiStep_eq (a : Lanes) {x y x' y' : Fin 5} {t o : Nat} {b : Lanes} {k k' : Fin 25}
    (hx : piNext x y = (x', y')) (hk : laneIndex x y = k) (hk' : laneIndex x' y' = k') (ho : rhoOffset t = o)
    (hr : readLane b k' = readLane a k') :
    rhoPiStep ⟨b, x, y, readLane a k⟩ t = ⟨writeLane b k' (rotl (readLane a k) o), x', y', readLane a k'⟩ := by
  subst hk hk' ho
  simp [rhoPiStep, hx, laneAt, hr]

/-- The steps of the traversal: source lane, destination lane, offset (spec/41_permutation.md R103). -/
def rhoPiSteps : List (Fin 25 × Fin 25 × Nat) :=
   [(1, 10, 1), (10, 7, 3), (7, 11, 6), (11, 17, 10), (17, 18, 15), (18, 3, 21), (3, 5, 28), (5, 16,
    36), (16, 8, 45), (8, 21, 55), (21, 24, 2), (24, 4, 14), (4, 15, 27), (15, 23, 41), (23, 19, 56),
    (19, 13, 8), (13, 12, 25), (12, 2, 43), (2, 20, 62), (20, 14, 18), (14, 22, 39), (22, 9, 61), (9, 6,
    20), (6, 1, 44)]

/-- The traversal writes the input's lanes, one after the other. -/
theorem rhoPi_eq_writes (a : Lanes) :
    rhoPi a = rhoPiSteps.foldl (fun acc w => writeLane acc w.2.1 (rotl (readLane a w.1) w.2.2)) a := by
  have hr : List.range 24 = [0, 1, 2, 3, 4, 5, 6, 7, 8, 9, 10, 11, 12, 13, 14, 15, 16, 17, 18, 19, 20, 21, 22, 23] := rfl
  have h0 : laneAt a 1 0 = readLane a 1 := rfl
  unfold rhoPi rhoPiSteps
  rw [hr, h0]
  simp only [List.foldl_cons, List.foldl_nil]
  rw [rhoPiStep_eq a (t := 0) (k := 1) (k' := 10) (x' := 0) (y' := 2) (o := 1) (by decide)
    (by decide) (by decide) (by decide) rfl]
  rw [rhoPiStep_eq a (t := 1) (k := 10) (k' := 7) (x' := 2) (y' := 1) (o := 3) (by decide)
    (by decide) (by decide) (by decide) (by simp [readLane_writeLane])]
  rw [rhoPiStep_eq a (t := 2) (k := 7) (k' := 11) (x' := 1) (y' := 2) (o := 6) (by decide)
    (by decide) (by decide) (by decide) (by simp [readLane_writeLane])]
  rw [rhoPiStep_eq a (t := 3) (k := 11) (k' := 17) (x' := 2) (y' := 3) (o := 10) (by decide)
    (by decide) (by decide) (by decide) (by simp [readLane_writeLane])]
  rw [rhoPiStep_eq a (t := 4) (k := 17) (k' := 18) (x' := 3) (y' := 3) (o := 15) (by decide)
    (by decide) (by decide) (by decide) (by simp [readLane_writeLane])]
  rw [rhoPiStep_eq a (t := 5) (k := 18) (k' := 3) (x' := 3) (y' := 0) (o := 21) (by decide)
    (by decide) (by decide) (by decide) (by simp [readLane_writeLane])]
  rw [rhoPiStep_eq a (t := 6) (k := 3) (k' := 5) (x' := 0) (y' := 1) (o := 28) (by decide)
    (by decide) (by decide) (by decide) (by simp [readLane_writeLane])]
  rw [rhoPiStep_eq a (t := 7) (k := 5) (k' := 16) (x' := 1) (y' := 3) (o := 36) (by decide)
    (by decide) (by decide) (by decide) (by simp [readLane_writeLane])]
  rw [rhoPiStep_eq a (t := 8) (k := 16) (k' := 8) (x' := 3) (y' := 1) (o := 45) (by decide)
    (by decide) (by decide) (by decide) (by simp [readLane_writeLane])]
  rw [rhoPiStep_eq a (t := 9) (k := 8) (k' := 21) (x' := 1) (y' := 4) (o := 55) (by decide)
    (by decide) (by decide) (by decide) (by simp [readLane_writeLane])]
  rw [rhoPiStep_eq a (t := 10) (k := 21) (k' := 24) (x' := 4) (y' := 4) (o := 2) (by decide)
    (by decide) (by decide) (by decide) (by simp [readLane_writeLane])]
  rw [rhoPiStep_eq a (t := 11) (k := 24) (k' := 4) (x' := 4) (y' := 0) (o := 14) (by decide)
    (by decide) (by decide) (by decide) (by simp [readLane_writeLane])]
  rw [rhoPiStep_eq a (t := 12) (k := 4) (k' := 15) (x' := 0) (y' := 3) (o := 27) (by decide)
    (by decide) (by decide) (by decide) (by simp [readLane_writeLane])]
  rw [rhoPiStep_eq a (t := 13) (k := 15) (k' := 23) (x' := 3) (y' := 4) (o := 41) (by decide)
    (by decide) (by decide) (by decide) (by simp [readLane_writeLane])]
  rw [rhoPiStep_eq a (t := 14) (k := 23) (k' := 19) (x' := 4) (y' := 3) (o := 56) (by decide)
    (by decide) (by decide) (by decide) (by simp [readLane_writeLane])]
  rw [rhoPiStep_eq a (t := 15) (k := 19) (k' := 13) (x' := 3) (y' := 2) (o := 8) (by decide)
    (by decide) (by decide) (by decide) (by simp [readLane_writeLane])]
  rw [rhoPiStep_eq a (t := 16) (k := 13) (k' := 12) (x' := 2) (y' := 2) (o := 25) (by decide)
    (by decide) (by decide) (by decide) (by simp [readLane_writeLane])]
  rw [rhoPiStep_eq a (t := 17) (k := 12) (k' := 2) (x' := 2) (y' := 0) (o := 43) (by decide)
    (by decide) (by decide) (by decide) (by simp [readLane_writeLane])]
  rw [rhoPiStep_eq a (t := 18) (k := 2) (k' := 20) (x' := 0) (y' := 4) (o := 62) (by decide)
    (by decide) (by decide) (by decide) (by simp [readLane_writeLane])]
  rw [rhoPiStep_eq a (t := 19) (k := 20) (k' := 14) (x' := 4) (y' := 2) (o := 18) (by decide)
    (by decide) (by decide) (by decide) (by simp [readLane_writeLane])]
  rw [rhoPiStep_eq a (t := 20) (k := 14) (k' := 22) (x' := 2) (y' := 4) (o := 39) (by decide)
    (by decide) (by decide) (by decide) (by simp [readLane_writeLane])]
  rw [rhoPiStep_eq a (t := 21) (k := 22) (k' := 9) (x' := 4) (y' := 1) (o := 61) (by decide)
    (by decide) (by decide) (by decide) (by simp [readLane_writeLane])]
  rw [rhoPiStep_eq a (t := 22) (k := 9) (k' := 6) (x' := 1) (y' := 1) (o := 20) (by decide)
    (by decide) (by decide) (by decide) (by simp [readLane_writeLane])]
  rw [rhoPiStep_eq a (t := 23) (k := 6) (k' := 1) (x' := 1) (y' := 0) (o := 44) (by decide)
    (by decide) (by decide) (by decide) (by simp [readLane_writeLane])]

end Sys2Proof.Machine
end

