-- ==== Sys2Proof/Laws/State.lean ====
section
/-!
SUPPORT. One lemma per field for each update of the state, so that no proof unfolds a record update.
-/
namespace Sys2Proof.Machine

section
variable (s : State) (tag : Tag) (bytes : List Byte) (a : Lanes) (st : Status) (c : Command) (cause : Cause)

@[simp] theorem respond_before : (respond tag bytes s).before = s.before := rfl
@[simp] theorem respond_engine : (respond tag bytes s).engine = s.engine := rfl
@[simp] theorem respond_after : (respond tag bytes s).after = s.after := rfl
@[simp] theorem respond_pending : (respond tag bytes s).pending = s.pending := rfl
@[simp] theorem respond_responses : (respond tag bytes s).responses = s.responses ++ [⟨s.index, tag, bytes⟩] := rfl
@[simp] theorem respond_index : (respond tag bytes s).index = s.index := rfl

@[simp] theorem setLanes_before : (setLanes a s).before = s.before := rfl
@[simp] theorem setLanes_lanes : (setLanes a s).engine.lanes = a := rfl
@[simp] theorem setLanes_status : (setLanes a s).engine.status = s.engine.status := rfl
@[simp] theorem setLanes_after : (setLanes a s).after = s.after := rfl
@[simp] theorem setLanes_pending : (setLanes a s).pending = s.pending := rfl
@[simp] theorem setLanes_responses : (setLanes a s).responses = s.responses := rfl
@[simp] theorem setLanes_index : (setLanes a s).index = s.index := rfl
@[simp] theorem setLanes_self : setLanes s.engine.lanes s = s := rfl

@[simp] theorem setStatus_before : (setStatus st s).before = s.before := rfl
@[simp] theorem setStatus_lanes : (setStatus st s).engine.lanes = s.engine.lanes := rfl
@[simp] theorem setStatus_status : (setStatus st s).engine.status = st := rfl
@[simp] theorem setStatus_after : (setStatus st s).after = s.after := rfl
@[simp] theorem setStatus_pending : (setStatus st s).pending = s.pending := rfl
@[simp] theorem setStatus_responses : (setStatus st s).responses = s.responses := rfl
@[simp] theorem setStatus_index : (setStatus st s).index = s.index := rfl

@[simp] theorem raiseFault_before : (raiseFault cause c s).before = s.before := rfl
@[simp] theorem raiseFault_lanes : (raiseFault cause c s).engine.lanes = s.engine.lanes := rfl
@[simp] theorem raiseFault_status : (raiseFault cause c s).engine.status = faultStatus cause c := rfl
@[simp] theorem raiseFault_after : (raiseFault cause c s).after = s.after := rfl
@[simp] theorem raiseFault_pending : (raiseFault cause c s).pending = s.pending := rfl
@[simp] theorem raiseFault_responses :
    (raiseFault cause c s).responses = s.responses ++ [⟨s.index, .err, []⟩] := rfl
@[simp] theorem raiseFault_index : (raiseFault cause c s).index = s.index := rfl

@[simp] theorem refuse_before : (refuse s).before = s.before := rfl
@[simp] theorem refuse_engine : (refuse s).engine = s.engine := rfl
@[simp] theorem refuse_after : (refuse s).after = s.after := rfl
@[simp] theorem refuse_pending : (refuse s).pending = s.pending := rfl
@[simp] theorem refuse_responses : (refuse s).responses = s.responses ++ [⟨s.index, .err, []⟩] := rfl
@[simp] theorem refuse_index : (refuse s).index = s.index := rfl

@[simp] theorem resetEngine_before : (resetEngine s).before = s.before := rfl
@[simp] theorem resetEngine_engine : (resetEngine s).engine = Engine.reset := rfl
@[simp] theorem resetEngine_after : (resetEngine s).after = s.after := rfl
@[simp] theorem resetEngine_pending : (resetEngine s).pending = s.pending := rfl
@[simp] theorem resetEngine_responses : (resetEngine s).responses = s.responses := rfl
@[simp] theorem resetEngine_index : (resetEngine s).index = s.index := rfl

@[simp] theorem answered_before : (s.answered a bytes).before = s.before := rfl
@[simp] theorem answered_lanes : (s.answered a bytes).engine.lanes = a := rfl
@[simp] theorem answered_status : (s.answered a bytes).engine.status = s.engine.status := rfl
@[simp] theorem answered_after : (s.answered a bytes).after = s.after := rfl
@[simp] theorem answered_pending : (s.answered a bytes).pending = s.pending := rfl
@[simp] theorem answered_responses :
    (s.answered a bytes).responses = s.responses ++ [⟨s.index, .ok, bytes⟩] := rfl
@[simp] theorem answered_index : (s.answered a bytes).index = s.index := rfl

@[simp] theorem respond_setLanes : respond .ok bytes (setLanes a s) = s.answered a bytes := rfl
theorem respond_ok : respond .ok bytes s = s.answered s.engine.lanes bytes := rfl

@[simp] theorem placeCommand_before : (placeCommand c s).before = s.before := rfl
@[simp] theorem placeCommand_engine : (placeCommand c s).engine = s.engine := rfl
@[simp] theorem placeCommand_after : (placeCommand c s).after = s.after := rfl
@[simp] theorem placeCommand_pending :
    (placeCommand c s).pending = ⟨s.index, .command c⟩ :: s.pending := rfl
@[simp] theorem placeCommand_responses : (placeCommand c s).responses = s.responses := rfl

@[simp] theorem Status.reset_fault : Status.reset.fault = 0#1 := rfl
@[simp] theorem Engine.reset_lanes : Engine.reset.lanes = zeroLanes := rfl
@[simp] theorem Engine.reset_status : Engine.reset.status = Status.reset := rfl

end

/-- `FAULT` is one bit. -/
theorem faulted_eq_false_iff (e : Engine) : faulted e = false ↔ e.status.fault = 0#1 := by
  unfold faulted
  generalize e.status.fault = f
  revert f
  decide

theorem faulted_eq_true_iff (e : Engine) : faulted e = true ↔ e.status.fault = 1#1 := by
  simp [faulted]

theorem faulted_of_normal {s : State} (h : s.normal) : faulted s.engine = false :=
  (faulted_eq_false_iff s.engine).2 h

end Sys2Proof.Machine
end

