-- ==== Sys2Proof/Laws/Ops.lean ====
section
/-!
SUPPORT. What each shared operation can do, said once: the frame of a command, the arms of `exec`, the rejection of a
command, and the selection of an engine.
-/
namespace Sys2Proof.Machine

/-- Everything the frame of a command can do: refuse, complete, or fault on the payload length. -/
theorem runChecked_eq (i : Instr) (body : Lanes → Lanes × List Byte) (s : State) :
    runChecked i body s = .next (
      if faulted s.engine then refuse s
      else if i.wellFormed then s.answered (body s.engine.lanes).1 (body s.engine.lanes).2
      else raiseFault .payloadLength (encode i) s) := by
  unfold runChecked rejectCommand
  rw [check_encode]
  cases i.wellFormed <;> cases faulted s.engine <;> simp

theorem runChecked_of_faulted {s : State} (h : faulted s.engine = true) (i : Instr)
    (body : Lanes → Lanes × List Byte) : runChecked i body s = .next (refuse s) := by
  simp [runChecked_eq, h]

theorem runChecked_of_wellFormed {s : State} (h : s.normal) {i : Instr} (hi : i.wellFormed = true)
    (body : Lanes → Lanes × List Byte) :
    runChecked i body s = .next (s.answered (body s.engine.lanes).1 (body s.engine.lanes).2) := by
  simp [runChecked_eq, faulted_of_normal h, hi]

theorem runChecked_of_not_wellFormed {s : State} (h : s.normal) {i : Instr} (hi : i.wellFormed = false)
    (body : Lanes → Lanes × List Byte) :
    runChecked i body s = .next (raiseFault .payloadLength (encode i) s) := by
  simp [runChecked_eq, faulted_of_normal h, hi]

/-- RDSTATUS answers in every mode. -/
theorem exec_rdstatus (s : State) :
    exec .rdstatus s = .next (s.answered s.engine.lanes (le32bytes (statusWord s.engine.status))) := rfl

/-- What each command does to the lanes, and what it responds; of RDSTATUS, which reads no lane, only the former. -/
def commandBody : Instr → Lanes → Lanes × List Byte
  | .init => fun _ => (zeroLanes, [])
  | .xorin p => fun a => (xorBlock a p, [])
  | .absorb p => fun a => (absorbBlock a p, [])
  | .absorbf _ p => fun a => (absorbBlock a (pad p), [])
  | .permute => fun a => (keccakF a, [])
  | .round i => fun a => (rnd a i, [])
  | .theta => fun a => (theta a, [])
  | .rhopi => fun a => (rhoPi a, [])
  | .chi => fun a => (chi a, [])
  | .iota i => fun a => (iota a i, [])
  | .rdrc i => fun a => (a, le64bytes (rc i))
  | .squeeze => fun a => (a, squeezeBytes a)
  | .rdlane k => fun a => (a, le64bytes (readLane a k))
  | .wrlane k p => fun a => (writeLane a k (le64 p), [])
  | .rdstatus => fun a => (a, [])

/-- Every arm of `exec` but RDSTATUS is the frame of a command around its body. -/
theorem exec_eq_runChecked {i : Instr} (h : i ≠ .rdstatus) (s : State) :
    exec i s = runChecked i (commandBody i) s := by
  cases i
  case rdstatus => exact absurd rfl h
  all_goals rfl

/-- A well-formed command other than RDSTATUS, in normal mode, completes with its body's lanes and response. -/
theorem exec_of_normal {s : State} (h : s.normal) {i : Instr} (hr : i ≠ .rdstatus) (hw : i.wellFormed = true) :
    exec i s = .next (s.answered (commandBody i s.engine.lanes).1 (commandBody i s.engine.lanes).2) := by
  rw [exec_eq_runChecked hr, runChecked_of_wellFormed h hw]

/-- Everything a command can do: be refused, complete with `STATUS` unchanged, or fault on the payload length. -/
theorem exec_cases (i : Instr) (s : State) :
    (faulted s.engine = true ∧ i ≠ .rdstatus ∧ exec i s = .next (refuse s)) ∨
    ((faulted s.engine = false ∨ i = .rdstatus) ∧ i.wellFormed = true ∧
      ∃ a bytes, exec i s = .next (s.answered a bytes)) ∨
    (faulted s.engine = false ∧ i.wellFormed = false ∧
      exec i s = .next (raiseFault .payloadLength (encode i) s)) := by
  by_cases hr : i = .rdstatus
  · subst hr
    exact .inr (.inl ⟨.inr rfl, rfl, _, _, exec_rdstatus s⟩)
  · rw [exec_eq_runChecked hr, runChecked_eq]
    cases hf : faulted s.engine with
    | true => exact .inl ⟨rfl, hr, by simp⟩
    | false =>
      cases hw : i.wellFormed with
      | true => exact .inr (.inl ⟨.inl rfl, rfl, _, _, rfl⟩)
      | false => exact .inr (.inr ⟨rfl, rfl, by simp⟩)

/-- A rejected command is refused or faults. -/
theorem rejectCommand_cases (cause : Cause) (c : Command) (s : State) :
    (faulted s.engine = true ∧ rejectCommand cause c s = refuse s) ∨
    (faulted s.engine = false ∧ rejectCommand cause c s = raiseFault cause c s) := by
  unfold rejectCommand
  cases faulted s.engine <;> simp

/-- Selecting an engine moves the focus and changes nothing else. -/
theorem select_eq_some {e : Nat} {s t : State} (h : select e s = some t) :
    e < s.engines.length ∧ t.engines = s.engines ∧ t.index = e ∧ s.engines[e]? = some t.engine ∧
      t.pending = s.pending ∧ t.responses = s.responses := by
  unfold select at h
  split at h
  · cases h
  · rename_i x rest hd
    cases h
    have hlt : e < s.engines.length := by
      by_contra hge
      simp [List.drop_eq_nil_of_le (Nat.le_of_not_lt hge)] at hd
    have hx : s.engines[e]? = some x := by
      have := congrArg (fun l => l[0]?) hd
      simpa using this
    refine ⟨hlt, ?_, ?_, hx, rfl, rfl⟩
    · simp only [State.engines] at hd ⊢
      rw [← hd, List.take_append_drop]
    · simp [State.index, Nat.le_of_lt hlt]

theorem select_eq_none_iff (e : Nat) (s : State) : select e s = none ↔ s.engines.length ≤ e := by
  unfold select
  split
  · rename_i hd
    simpa using hd
  · rename_i x rest hd
    simp only [reduceCtorEq, false_iff, Nat.not_le]
    by_contra hge
    simp [List.drop_eq_nil_of_le (Nat.le_of_not_lt hge)] at hd

/-- Selecting the engine that is the addressed one already changes nothing. -/
theorem select_index (s : State) : select s.index s = some s := by
  simp [select, State.engines, State.index]

/-- The addressed engine is the one at its index. -/
theorem engineAt_index (s : State) : s.engineAt s.index = some s.engine := by
  simp [State.engineAt, State.engines, State.index]

/-- Everything a step can do. -/
theorem step_cases (s : State) :
    (s.pending = [] ∧ step s = .next s) ∨
    ∃ act rest, s.pending = act :: rest ∧
      ((select act.engine s = none ∧ step s = .fault .noSuchEngine) ∨
        ∃ s', select act.engine s = some s' ∧ step s = runEvent act.event { s' with pending := rest }) := by
  unfold step takeAction
  cases s.pending with
  | nil => exact .inl ⟨rfl, rfl⟩
  | cons act rest =>
    refine .inr ⟨act, rest, rfl, ?_⟩
    cases hs : select act.engine s with
    | none => exact .inl ⟨rfl, by simp [hs]⟩
    | some s' => exact .inr ⟨s', rfl, by simp [hs]⟩

/-- Everything an event can do to the addressed engine. -/
theorem runEvent_cases (ev : HostEvent) (s : State) :
    (ev = .reset ∧ runEvent ev s = .next (resetEngine s)) ∨
    ∃ c, ev = .command c ∧
      ((∃ i, decode c = .ok i ∧ runEvent ev s = exec i s) ∨
        ∃ cause, check c = some cause ∧ runEvent ev s = .next (rejectCommand cause c s)) := by
  cases ev with
  | reset => exact .inl ⟨rfl, rfl⟩
  | command c =>
    refine .inr ⟨c, rfl, ?_⟩
    simp only [runEvent, runCommand]
    cases hd : decode c with
    | ok i => exact .inl ⟨i, rfl, rfl⟩
    | error cause => exact .inr ⟨cause, (decode_eq_error_iff c cause).1 hd, rfl⟩

end Sys2Proof.Machine
end

