-- ==== Sys2Proof/Laws/PerInstr.lean ====
section
/-!
SUPPORT. Statements made per instruction: the fields of the command word an instruction encodes to, and that its
opcode is assigned and its argument in range.
-/
namespace Sys2Proof.Laws.EncodedFields

/-- An encoded instruction has its own fields, a zero `RSV`, an assigned opcode and an argument in range. -/
def Statement (i : Instr) : Prop :=
  (encode i).opc = i.opcode ∧ (encode i).arg = i.arg ∧ (encode i).rsv = 0#16 ∧
    assigned i.opcode.toNat = true ∧ argOK i.opcode.toNat i.arg.toNat = true

/-- What every instruction shares: the fields are read back as they were written. -/
theorem of_ranges {i : Instr} (ha : assigned i.opcode.toNat = true)
    (hr : argOK i.opcode.toNat i.arg.toNat = true) : Statement i :=
  ⟨opc_commandWord _ _ _, arg_commandWord _ _ _, rsv_commandWord _ _ _, ha, hr⟩

theorem init : Statement .init := of_ranges rfl rfl
theorem xorin (p : List Byte) : Statement (.xorin p) := of_ranges rfl rfl
theorem absorb (p : List Byte) : Statement (.absorb p) := of_ranges rfl rfl
theorem absorbf (n : Fin 136) (p : List Byte) : Statement (.absorbf n p) := of_ranges rfl (by
    have := n.isLt
    simp [argOK, Instr.opcode, Instr.arg]
    omega)
theorem permute : Statement .permute := of_ranges rfl rfl
theorem round (k : Fin 24) : Statement (.round k) := of_ranges rfl (by
    revert k
    decide)
theorem theta : Statement .theta := of_ranges rfl rfl
theorem rhopi : Statement .rhopi := of_ranges rfl rfl
theorem chi : Statement .chi := of_ranges rfl rfl
theorem iota (k : Fin 24) : Statement (.iota k) := of_ranges rfl (by
    revert k
    decide)
theorem rdrc (k : Fin 24) : Statement (.rdrc k) := of_ranges rfl (by
    revert k
    decide)
theorem squeeze : Statement .squeeze := of_ranges rfl rfl
theorem rdlane (k : Fin 25) : Statement (.rdlane k) := of_ranges rfl (by
    revert k
    decide)
theorem wrlane (k : Fin 25) (p : List Byte) : Statement (.wrlane k p) := of_ranges rfl (by
    change argOK 0x12 (BitVec.ofNat 8 k.val).toNat = true
    revert k
    decide)
theorem rdstatus : Statement .rdstatus := of_ranges rfl rfl

end Sys2Proof.Laws.EncodedFields
end

