-- ==== Sys2Proof/Machine/Assembler.lean ====
section
/-!
DEFINITION. The assembler notation of spec/30_encoding.md R72 and the pseudo-instructions of R73: what commands a line
stands for. The host's notation, no part of `step`. What R72 does not say of the text of a line (which characters
separate words, either case of a hex digit, operands that fit no field) is DESIGN CHOICE (log entry 6), and so is what a
mnemonic's line with a malformed command stands for (log entry 16).
-/
namespace Sys2Proof.Machine

/-- The words of a line. -/
inductive Token where
  | word (text : List Char)
  /-- `x"hh..."`. -/
  | bytes (payload : List Byte)
  | comma
  | open_
  | close
  deriving DecidableEq, Repr

/-- The value of a hexadecimal digit. -/
def hexValue (c : Char) : Option Nat :=
  let n := c.toNat
  if 48 ≤ n ∧ n ≤ 57 then some (n - 48)
  else if 97 ≤ n ∧ n ≤ 102 then some (n - 87)
  else if 65 ≤ n ∧ n ≤ 70 then some (n - 55)
  else none

/-- The number the digits stand for in a base of at most 16. -/
def digitsValue (base : Nat) (cs : List Char) : Option Nat :=
  cs.foldl (fun acc c => do
    let n ← acc
    let d ← hexValue c
    if d < base then some (base * n + d) else none) (some 0)

/-- A decimal or `0x` hexadecimal number (R72). -/
def numberValue : List Char → Option Nat
  | [] => none
  | '0' :: 'x' :: c :: cs => digitsValue 16 (c :: cs)
  | cs => digitsValue 10 cs

/-- A value `0x` followed by exactly `n` digits (R72). -/
def fixedHexValue (n : Nat) : List Char → Option Nat
  | '0' :: 'x' :: cs => if cs.length = n then digitsValue 16 cs else none
  | _ => none

/-- A payload's hexadecimal digits, two a byte, in payload order (R72). -/
def hexBytes : List Char → Option (List Byte)
  | [] => some []
  | [_] => none
  | a :: b :: cs => do
    let h ← hexValue a
    let l ← hexValue b
    let bs ← hexBytes cs
    some (BitVec.ofNat 8 (16 * h + l) :: bs)

/-- What the lexer has read of a line: the tokens and the characters of the current word, latest first, and the
characters of a payload that is still open. -/
structure LexState where
  tokens : List Token
  current : List Char
  payload : Option (List Char)

/-- The current word ended. -/
def endWord (l : LexState) : LexState :=
  if l.current.isEmpty then l else { l with tokens := .word l.current.reverse :: l.tokens, current := [] }

/-- One more character of a line (34 is the double quote, 32 the space, 9 the tabulator). -/
def lexChar (l : LexState) (c : Char) : Option LexState :=
  match l.payload with
  | some hex =>
    if c.toNat = 34 then do
      let bs ← hexBytes hex.reverse
      some { l with tokens := .bytes bs :: l.tokens, payload := none }
    else some { l with payload := some (c :: hex) }
  | none =>
    if c.toNat = 34 then (if l.current = ['x'] then some { l with current := [], payload := some [] } else none)
    else if c.toNat = 32 ∨ c.toNat = 9 then some (endWord l)
    else if c = ',' then some { endWord l with tokens := .comma :: (endWord l).tokens }
    else if c = '(' then some { endWord l with tokens := .open_ :: (endWord l).tokens }
    else if c = ')' then some { endWord l with tokens := .close :: (endWord l).tokens }
    else some { l with current := c :: l.current }

/-- The tokens of a line, up to a comment `;` (R72). -/
def lexLine (line : List Char) : Option (List Token) := do
  let l ← (line.takeWhile (· ≠ ';')).foldlM lexChar ⟨[], [], none⟩
  if l.payload = none then some (endWord l).tokens.reverse else none

/-- An 8-bit operand as `ARG`. -/
def argOf (n : Nat) : Option (BitVec 8) := if n < 256 then some (BitVec.ofNat 8 n) else none

/-- A lane index, or its other spelling `(x,y)` for `x + 5*y`, and the tokens after it (R72). -/
def laneOperand : List Token → Option (Nat × List Token)
  | .word k :: rest => do some (← numberValue k, rest)
  | .open_ :: .word x :: .comma :: .word y :: .close :: rest => do
    let x ← numberValue x
    let y ← numberValue y
    if x ≤ 4 ∧ y ≤ 4 then some (x + 5 * y, rest) else none
  | _ => none

/-- The commands of a line's tokens (R72, R73). R72 gives `.word` for malformed commands and does not say what a mnemonic's
line is whose payload is not of the form's length (`XORIN x"00"`) or whose `ARG` fits 8 bits and is outside its range
(`ROUND 24`). It stands here for the command with those fields, which then faults: DESIGN CHOICE, unsafe for a claim
about such a line only (log entry 16). -/
def assembleTokens : List Token → Option (List Command)
  | [] => some []
  | [.word ['I', 'N', 'I', 'T']] => some [⟨commandWord 0x01 0, []⟩]
  | [.word ['X', 'O', 'R', 'I', 'N'], .bytes p] => some [⟨commandWord 0x02 0, p⟩]
  | [.word ['A', 'B', 'S', 'O', 'R', 'B'], .bytes p] => some [⟨commandWord 0x03 0, p⟩]
  | [.word ['A', 'B', 'S', 'O', 'R', 'B', 'F'], .word n, .comma, .bytes p] => do
    some [⟨commandWord 0x04 (← argOf (← numberValue n)), p⟩]
  | [.word ['P', 'E', 'R', 'M', 'U', 'T', 'E']] => some [⟨commandWord 0x08 0, []⟩]
  | [.word ['R', 'O', 'U', 'N', 'D'], .word i] => do some [⟨commandWord 0x09 (← argOf (← numberValue i)), []⟩]
  | [.word ['T', 'H', 'E', 'T', 'A']] => some [⟨commandWord 0x0A 0, []⟩]
  | [.word ['R', 'H', 'O', 'P', 'I']] => some [⟨commandWord 0x0B 0, []⟩]
  | [.word ['C', 'H', 'I']] => some [⟨commandWord 0x0C 0, []⟩]
  | [.word ['I', 'O', 'T', 'A'], .word i] => do some [⟨commandWord 0x0D (← argOf (← numberValue i)), []⟩]
  | [.word ['R', 'D', 'R', 'C'], .word i] => do some [⟨commandWord 0x0E (← argOf (← numberValue i)), []⟩]
  | [.word ['S', 'Q', 'U', 'E', 'E', 'Z', 'E']] => some [⟨commandWord 0x10 0, []⟩]
  | .word ['R', 'D', 'L', 'A', 'N', 'E'] :: lane => do
    let (k, rest) ← laneOperand lane
    if rest = [] then some [⟨commandWord 0x11 (← argOf k), []⟩] else none
  | .word ['W', 'R', 'L', 'A', 'N', 'E'] :: lane => do
    match ← laneOperand lane with
    | (k, [.comma, .word v]) =>
      some [⟨commandWord 0x12 (← argOf k), le64bytes (BitVec.ofNat 64 (← fixedHexValue 16 v))⟩]
    | _ => none
  | [.word ['R', 'D', 'S', 'T', 'A', 'T', 'U', 'S']] => some [⟨commandWord 0x1F 0, []⟩]
  | [.word ['.', 'w', 'o', 'r', 'd'], .word w, .comma, .bytes p] => do
    some [⟨BitVec.ofNat 32 (← fixedHexValue 8 w), p⟩]
  | [.word ['H', 'A', 'S', 'H'], .bytes m] => some ((hashProgram m).map encode)
  | [.word ['R', 'D', 'S', 'T', 'A', 'T', 'E']] => some (rdstateProgram.map encode)
  | _ => none

/-- The commands a line stands for: none for an empty or comment line, one for a command, several for a
pseudo-instruction; no answer for a line that is no line of the notation (R72, R73). -/
def assembleLine (line : List Char) : Option (List Command) := do assembleTokens (← lexLine line)

end Sys2Proof.Machine
end

