-- ==== Sys2Proof/Tests/Slice0.lean ====
section
/-!
SUPPORT. Tests: every expected value is the spec's own, from the file and vector named beside it
(spec/95_test_vectors.md, the examples of spec/30_encoding.md R74 and of the command rules). Each runs at most one step.
At the end, for every statement that has hypotheses, a concrete case that meets all of them.
-/
set_option Elab.async false

namespace Sys2Proof.Tests
open Sys2Proof Sys2Proof.Machine

/-! ### Helpers -/

/-- The zero lane array with some lanes given. -/
def lanesWith (vs : List (Fin 25 × Lane)) : Lanes := vs.foldl (fun a v => writeLane a v.1 v.2) zeroLanes

/-- A platform of one engine in normal mode with the given lanes. -/
def withLanes (vs : List (Fin 25 × Lane)) : State := setLanes (lanesWith vs) State.reset

/-- `s` with one command pending for its engine. -/
def given (c : Command) (s : State) : State := placeCommand c s

/-- A property of the next state of an outcome. -/
def after (o : Host.Outcome State Fault Refusal) (p : State → Bool) : Bool :=
  match o with
  | .next t => p t
  | .fault _ => false
  | .refused _ => false

/-- The next state has these lanes, and the one response given is `(OK, [])`. -/
def leaves (o : Host.Outcome State Fault Refusal) (vs : List (Fin 25 × Lane)) : Bool :=
  after o fun t => vs.all (fun v => readLane t.engine.lanes v.1 == v.2) && t.responses == [⟨0, .ok, []⟩]

/-- The one response given is `(OK, bytes)`. -/
def answers (o : Host.Outcome State Fault Refusal) (bytes : List Byte) : Bool :=
  after o fun t => t.responses == [⟨0, .ok, bytes⟩]

/-- The one response given is `(ERR, [])`, and `STATUS` reads as given. -/
def faults (o : Host.Outcome State Fault Refusal) (status : Word) (a : Lanes) : Bool :=
  after o fun t => t.responses == [⟨0, .err, []⟩] && statusWord t.engine.status == status && t.engine.lanes == a

/-- A digest written as one number, most significant byte first. -/
def digest (n : BitVec 256) : List Byte := (List.range 32).map fun k => n.extractLsb' (8 * (31 - k)) 8

/-- Bytes 0x00, 0x01, ..., as the payload of V-A4. -/
def countingBytes (n : Nat) : List Byte := (List.range n).map fun k => BitVec.ofNat 8 k

/-! ### Well-formedness: an ill-formed term for each check (R68) -/

theorem test_xorin_short_ill_formed : (Instr.xorin (List.replicate 135 0#8)).wellFormed = false := by decide +kernel
theorem test_absorb_long_ill_formed : (Instr.absorb (List.replicate 137 0#8)).wellFormed = false := by decide +kernel
theorem test_absorbf_length_ill_formed : (Instr.absorbf 3 [0x61#8, 0x62#8]).wellFormed = false := by decide
theorem test_wrlane_short_ill_formed : (Instr.wrlane 0 [0#8]).wellFormed = false := by decide
theorem test_absorbf_empty_well_formed : (Instr.absorbf 0 []).wellFormed = true := by decide

/-! ### Decoding: words written out as RSV, ARG, OPC from R61 and R64 -/

theorem test_decode_init : decode ⟨0b0000000000000000_00000000_00000001#32, []⟩ = .ok .init := by rfl
theorem test_decode_xorin : decode ⟨0b0000000000000000_00000000_00000010#32, countingBytes 136⟩ =
    .ok (.xorin (countingBytes 136)) :=
  (decode_eq_ok_iff _ _).2 (by decide +kernel)
theorem test_decode_absorb : decode ⟨0b0000000000000000_00000000_00000011#32, countingBytes 136⟩ =
    .ok (.absorb (countingBytes 136)) :=
  (decode_eq_ok_iff _ _).2 (by decide +kernel)
theorem test_decode_absorbf : decode ⟨0b0000000000000000_10000111_00000100#32, countingBytes 135⟩ =
    .ok (.absorbf 135 (countingBytes 135)) :=
  (decode_eq_ok_iff _ _).2 (by decide +kernel)
theorem test_decode_permute : decode ⟨0b0000000000000000_00000000_00001000#32, []⟩ = .ok .permute := by rfl
theorem test_decode_round : decode ⟨0b0000000000000000_00010111_00001001#32, []⟩ = .ok (.round 23) := by rfl
theorem test_decode_theta : decode ⟨0b0000000000000000_00000000_00001010#32, []⟩ = .ok .theta := by rfl
theorem test_decode_rhopi : decode ⟨0b0000000000000000_00000000_00001011#32, []⟩ = .ok .rhopi := by rfl
theorem test_decode_chi : decode ⟨0b0000000000000000_00000000_00001100#32, []⟩ = .ok .chi := by rfl
theorem test_decode_iota : decode ⟨0b0000000000000000_00000101_00001101#32, []⟩ = .ok (.iota 5) := by rfl
theorem test_decode_rdrc : decode ⟨0b0000000000000000_00000000_00001110#32, []⟩ = .ok (.rdrc 0) := by rfl
theorem test_decode_squeeze : decode ⟨0b0000000000000000_00000000_00010000#32, []⟩ = .ok .squeeze := by rfl
theorem test_decode_rdlane : decode ⟨0b0000000000000000_00011000_00010001#32, []⟩ = .ok (.rdlane 24) := by rfl
theorem test_decode_wrlane : decode ⟨0b0000000000000000_00000000_00010010#32, countingBytes 8⟩ =
    .ok (.wrlane 0 (countingBytes 8)) := by rfl
theorem test_decode_rdstatus : decode ⟨0b0000000000000000_00000000_00011111#32, []⟩ = .ok .rdstatus := by rfl

/-- R65: the reserved opcodes, and no other, are illegal. -/
theorem test_reserved_opcodes : (List.range 256).filter (fun op => !assigned op) =
    [0x00, 0x05, 0x06, 0x07, 0x0F] ++ List.range' 0x13 12 ++ List.range' 0x20 0xE0 := by decide +kernel

/-- An opcode-table word is read with a payload of zeros of the required length. -/
theorem test_table_word_absorbf : decodeTableWord 32 0x00000304 = some (.absorbf 3 [0#8, 0#8, 0#8]) := by decide +kernel
theorem test_table_word_refused : decodeTableWord 32 0x00001809 = none := by decide +kernel

/-- The placed table word is the one the next step runs. -/
theorem test_fetch_word : answers (step (State.reset.withFetchWord 32 0x0000000E)) [1, 0, 0, 0, 0, 0, 0, 0] = true := by
  decide +kernel

/-! ### Sponge commands -/

/-- R83, its example. -/
theorem test_init : leaves (exec .init (withLanes [(0, 0x0123456789ABCDEF), (24, 1)])) [(0, 0), (24, 0)] = true := by
  decide +kernel

/-- V-A4. -/
theorem test_xorin_counting : leaves (exec (.xorin (countingBytes 136)) (withLanes []))
    [(0, 0x0706050403020100), (7, 0x3F3E3D3C3B3A3938), (16, 0x8786858483828180), (17, 0), (24, 0)] = true := by
  decide +kernel


/-- P3: the first block of 136 bytes 0x61. -/
theorem test_absorb_rate_block : leaves (exec (.absorb (List.replicate 136 0x61#8)) (withLanes []))
    [(0, 0xD498EC4C50D2E1F1)] = true := by
  decide +kernel

/-- P2, end state: lanes 0 to 3 are the digest of "abc" (V-L2, V-D6). -/
theorem test_absorbf_abc : leaves (exec (.absorbf 3 [0x61#8, 0x62#8, 0x63#8]) (withLanes []))
    [(0, 0xB225E24FA75D983A), (1, 0xBD90D36B2D175C04), (2, 0x5B529D3E6E085F85), (3, 0x3215431145E2BF46), (12, 0x1A8B8B2A4AF00862), (24, 0xB5D89C9E96E91041)] = true := by
  decide +kernel


/-- V-A1: the padding's tail for each length of the table, and its total length. -/
theorem test_pad_lengths : ([0, 1, 134, 135, 136, 137, 271].map fun n => (pad (List.replicate n 0x61#8)).length) =
    [136, 136, 136, 136, 272, 272, 272] := by
  decide +kernel

theorem test_pad_tails : pad [] = [0x06#8] ++ List.replicate 134 0#8 ++ [0x80#8] ∧
    (pad (List.replicate 134 0x61#8)).drop 134 = [0x06#8, 0x80#8] ∧
    (pad (List.replicate 135 0x61#8)).drop 135 = [0x86#8] ∧
    (pad (List.replicate 271 0x61#8)).drop 271 = [0x86#8] := by
  decide +kernel

/-- V-S1: the digest lanes of the empty message, serialized. -/
theorem test_squeeze : answers (exec .squeeze (withLanes [(0, 0x66D71EBFF8C6FFA7), (1, 0x62D661A05647C151),
      (2, 0xFA493BE44DFF80F5), (3, 0x4A43F8804B0AD882), (4, 0xE2F36B34B7BE6652), (5, 0xFF875921CACC9566)]))
    (digest 0xa7ffc6f8bf1ed76651c14756a061d662f580ff4de43b49fa82d80a4b80f8434a) = true := by
  decide +kernel

/-! ### Permutation commands -/

/-- V-P1. -/
theorem test_permute_zero : leaves (exec .permute (withLanes []))
    [(0, 0xF1258F7940E1DDE7), (9, 0x30935AB7D08FFC64), (17, 0x613670957BC46611), (24, 0xEAF1FF7B5CECA249)] = true := by
  decide +kernel

/-- V-H5, i = 0, and V-H4, from the input of V-A3. -/
theorem test_round_zero : leaves (exec (.round 0) (withLanes [(0, 6), (16, 0x8000000000000000)]))
    [(0, 0x0000040000000006), (1, 0x0000600000000000), (7, 0x1000000000000008), (21, 0), (24, 0x18)] = true := by
  decide +kernel

/-- V-I3. -/
theorem test_round_one : leaves (exec (.round 1) (withLanes [])) [(0, 0x8082), (1, 0), (24, 0)] = true := by
  decide +kernel

/-- V-T2. -/
theorem test_theta_one : leaves (exec .theta (withLanes [(0, 1)]))
    [(0, 1), (1, 1), (6, 1), (21, 1), (4, 2), (24, 2), (2, 0), (3, 0), (5, 0)] = true := by
  decide +kernel

/-- V-T3: the wrap of the rotation. -/
theorem test_theta_wrap : leaves (exec .theta (withLanes [(0, 0x8000000000000000)]))
    [(0, 0x8000000000000000), (1, 0x8000000000000000), (4, 1), (24, 1), (5, 0)] = true := by
  decide +kernel

/-- V-R1. -/
theorem test_rhopi_ones : leaves (exec .rhopi (setLanes (Vector.replicate 25 1) State.reset))
    [(0, 1), (1, 0x0000100000000000), (2, 0x0000080000000000), (9, 0x2000000000000000), (12, 0x2000000),
     (20, 0x4000000000000000), (24, 4)] = true := by
  decide +kernel

/-- V-H2 from V-H1: lanes that differ. -/
theorem test_rhopi_moves : leaves (exec .rhopi (withLanes [(1, 0x8000000000000001), (6, 6), (9, 0xC)]))
    [(10, 3), (1, 0x0000600000000000), (6, 0x0000000000C00000), (9, 0)] = true := by
  decide +kernel

/-- V-C4: an in-place update would differ. -/
theorem test_chi_row : leaves (exec .chi (withLanes [(10, 0x0F), (11, 0x33), (12, 0x55), (13, 0xFF), (14, 0)]))
    [(10, 0x4B), (11, 0x99), (12, 0x55), (13, 0xF0), (14, 0x30), (0, 0)] = true := by
  decide +kernel

/-- V-C3: the row wraps around. -/
theorem test_chi_wraps : leaves (exec .chi (withLanes [(1, 0xFFFFFFFFFFFFFFFF)]))
    [(0, 0), (1, 0xFFFFFFFFFFFFFFFF), (2, 0), (3, 0), (4, 0xFFFFFFFFFFFFFFFF)] = true := by
  decide +kernel

/-- V-I1. -/
theorem test_iota_23 : leaves (exec (.iota 23) (withLanes [])) [(0, 0x8000000080008008), (1, 0)] = true := by
  decide +kernel

/-- V-I2. -/
theorem test_iota_cancels : leaves (exec (.iota 5) (withLanes [(0, 0x80000001)])) [(0, 0)] = true := by
  decide +kernel

/-- V-I4. -/
theorem test_rdrc_1 : answers (exec (.rdrc 1) (withLanes [])) [0x82, 0x80, 0, 0, 0, 0, 0, 0] = true := by decide +kernel
theorem test_rdrc_23 : answers (exec (.rdrc 23) (withLanes [])) [0x08, 0x80, 0, 0x80, 0, 0, 0, 0x80] = true := by
  decide +kernel

/-! ### Lane access and status -/

/-- R142, its example. -/
theorem test_rdlane_24 : answers (exec (.rdlane 24) (withLanes [(24, 0xEAF1FF7B5CECA249)]))
    [0x49, 0xa2, 0xec, 0x5c, 0x7b, 0xff, 0xf1, 0xea] = true := by
  decide +kernel

/-- V-X1: the payload replaces the lane and is not XORed into it. -/
theorem test_wrlane : leaves (exec (.wrlane 7 [0xef, 0xcd, 0xab, 0x89, 0x67, 0x45, 0x23, 0x01])
    (withLanes [(7, 0xFFFFFFFFFFFFFFFF), (8, 5)])) [(7, 0x0123456789ABCDEF), (8, 5), (6, 0)] = true := by
  decide +kernel

/-- V-X2. -/
theorem test_rdstatus_reset : answers (exec .rdstatus State.reset) [0, 0, 0, 0] = true := by decide +kernel

/-- R144, its example: after `.word 0x00001809, x""`. -/
def roundOutOfRange : Status := faultStatus .argRange ⟨0x00001809#32, []⟩

theorem test_rdstatus_faulted : answers (exec .rdstatus (setStatus roundOutOfRange State.reset))
    [0x01, 0x03, 0x09, 0x18] = true := by
  decide +kernel

/-! ### Faults: the table of spec/95_test_vectors.md, one step each -/

theorem test_fault_illegal_opcode :
    faults (step (given ⟨0x00000000#32, []⟩ State.reset)) 0x00000101 zeroLanes = true ∧
    faults (step (given ⟨0xABCD0005#32, []⟩ State.reset)) 0x00050101 zeroLanes = true := by decide +kernel

theorem test_fault_reserved_bits :
    faults (step (given ⟨0x00FF1809#32, []⟩ State.reset)) 0x18090201 zeroLanes = true := by decide +kernel

theorem test_fault_arg_range :
    faults (step (given ⟨0x00001809#32, []⟩ State.reset)) 0x18090301 zeroLanes = true ∧
    faults (step (given ⟨0x00000102#32, countingBytes 136⟩ State.reset)) 0x01020301 zeroLanes = true ∧
    faults (step (given ⟨0x00008804#32, countingBytes 136⟩ State.reset)) 0x88040301 zeroLanes = true ∧
    faults (step (given ⟨0x00001911#32, []⟩ State.reset)) 0x19110301 zeroLanes = true := by decide +kernel

theorem test_fault_payload_length :
    faults (step (given ⟨0x00000003#32, countingBytes 135⟩ State.reset)) 0x00030401 zeroLanes = true ∧
    faults (step (given ⟨0x00000304#32, countingBytes 2⟩ State.reset)) 0x03040401 zeroLanes = true := by decide +kernel

/-- P5: the refused INIT does not clear lane 3, and the first fault is kept. -/
theorem test_faulted_init_refused :
    faults (step (given ⟨0x00000001#32, []⟩ (setStatus roundOutOfRange (withLanes [(3, 0xFF)])))) 0x18090301
      (lanesWith [(3, 0xFF)]) = true := by decide +kernel

/-- A malformed command in faulted mode records no second fault (R163). -/
theorem test_faulted_malformed_refused :
    faults (step (given ⟨0x00000000#32, []⟩ (setStatus roundOutOfRange State.reset))) 0x18090301 zeroLanes = true := by
  decide +kernel

/-- P5: reset clears the lanes and `STATUS` and gives no response (R180). -/
theorem test_reset_event :
    after (step { setStatus roundOutOfRange (withLanes [(3, 0xFF)]) with pending := [⟨0, .reset⟩] })
      (fun t => t.engine == Engine.reset && t.responses == [] && t.pending == []) = true := by decide +kernel

/-! ### The message level -/

/-- R73: the commands HASH expands to. -/
theorem test_hash_program : hashProgram (List.replicate 139 0x61#8) =
    [.init, .absorb (List.replicate 136 0x61#8), .absorbf 3 [0x61#8, 0x61#8, 0x61#8], .squeeze] := by decide +kernel

/-- R145: two lower-case digits a byte, the most significant nibble first. -/
theorem test_render : renderDigest [0xa7#8, 0x0f#8] = ['a', '7', '0', 'f'] := by decide +kernel

/-! ### The assembler notation (R72, R74) -/

theorem test_assemble_absorbf : assembleTokens [.word ['A', 'B', 'S', 'O', 'R', 'B', 'F'], .word ['3'], .comma,
    .bytes [0x61#8, 0x62#8, 0x63#8]] = some [⟨0x00000304#32, [0x61#8, 0x62#8, 0x63#8]⟩] := by decide +kernel
theorem test_assemble_coordinates : assembleTokens [.word ['R', 'D', 'L', 'A', 'N', 'E'], .open_, .word ['4'], .comma,
    .word ['4'], .close] = some [⟨0x00001811#32, []⟩] := by decide +kernel
theorem test_assemble_wrlane : assembleLine (['W', 'R', 'L', 'A', 'N', 'E', ' ', '0', ',', ' ', '0', 'x'] ++
    List.replicate 15 '0' ++ ['1', ' ', ';', 'x']) = some [⟨0x00000012#32, [1, 0, 0, 0, 0, 0, 0, 0]⟩] := by decide +kernel
theorem test_assemble_raw_word : assembleLine (['.', 'w', 'o', 'r', 'd', ' ', '0', 'x', '0', '0', '0', '0', '1', '8', '0',
    '9', ',', ' ', 'x', Char.ofNat 34, Char.ofNat 34]) = some [⟨0x00001809#32, []⟩] := by decide +kernel
theorem test_assemble_comment : assembleLine [' ', ';', 'I'] = some [] := by decide +kernel

/-! ### Several engines -/

/-- A platform of three engines in normal mode, the middle one addressed last. -/
def three : State :=
  { before := [⟨lanesWith [(0, 1)], Status.reset⟩], engine := ⟨lanesWith [(0, 2)], Status.reset⟩,
    after := [⟨lanesWith [(0, 3)], roundOutOfRange⟩], pending := [], responses := [] }

/-- R30: an action addressed to engine 0 changes engine 0 alone, and its response says so. -/
theorem test_other_engines : after (step { three with pending := [⟨0, .command ⟨0x00000001#32, []⟩⟩] }) (fun t =>
    (t.engines.map fun e => readLane e.lanes 0) == [0, 2, 3] && t.responses == [⟨0, .ok, []⟩]) = true := by decide +kernel

/-- An action addressed to an engine that is not there stops the model. -/
theorem test_no_such_engine : (match step { three with pending := [⟨3, .reset⟩] } with
    | .fault .noSuchEngine => true
    | _ => false) = true := by decide +kernel

/-! ### Witnesses: the hypotheses of each statement are met together -/

/-- `three` with a pending command for engine 2, the faulted one; and its selection. -/
def threeGiven (e : Nat) (ev : HostEvent) : State := { three with pending := [⟨e, ev⟩] }

theorem witness_StepRunsDecodedCommand :
    (threeGiven 0 (.command ⟨0x00001709#32, []⟩)).pending = ⟨0, .command ⟨0x00001709#32, []⟩⟩ :: [] ∧
    (select 0 (threeGiven 0 (.command ⟨0x00001709#32, []⟩))).isSome = true ∧
    decode ⟨0x00001709#32, []⟩ = .ok (.round 23) := ⟨rfl, by decide +kernel, rfl⟩

/-- Both clauses, at the boundary: the last engine there is, and the first there is not. -/
theorem witness_SelectChangesNoEngine : 2 < three.engines.length ∧ three.engines.length ≤ 3 := by decide +kernel

theorem witness_HandWrittenWordsDecode : (List.replicate 135 0x61#8).length = 135 := List.length_replicate

theorem witness_DecodeOfEncode : (Instr.wrlane 24 (countingBytes 8)).wellFormed = true ∧
    (Instr.absorbf 135 (countingBytes 135)).wellFormed = true := by decide +kernel

theorem witness_EncodeOfDecode : decode ⟨0x00008704#32, countingBytes 135⟩ = .ok (.absorbf 135 (countingBytes 135)) :=
  test_decode_absorbf

/-- One command for each clause, at the boundary of its range. -/
theorem witness_FirstCauseIsReported :
    check ⟨0x00000020#32, []⟩ = some .illegalOpcode ∧ check ⟨0x0001001F#32, []⟩ = some .reservedBits ∧
    check ⟨0x00001911#32, []⟩ = some .argRange ∧ check ⟨0x00000712#32, countingBytes 7⟩ = some .payloadLength ∧
    check ⟨0x00001812#32, countingBytes 8⟩ = none := by decide +kernel

theorem witness_DecoderFollowsTheCheck : check ⟨0x00001809#32, []⟩ = some .argRange ∧
    check ⟨0x00001709#32, []⟩ = none := by decide +kernel

theorem witness_SerialFormIsReadBack : check ⟨0x00008704#32, countingBytes 135⟩ = none := by decide +kernel

/-- The boundaries of each clause: byte 7, an 8-byte list, byte 3; rotation by 63 and by 0; steps 0 and 23. -/
theorem witness_LaneBytesAreLittleEndian : 7 < 8 ∧ (countingBytes 8).length = 8 ∧ 3 < 4 := by decide +kernel
theorem witness_RotateLeftMovesBits : 63 < 64 ∧ 0 < 64 ∧ 23 < 24 := by decide

/-- Normal mode, for every statement whose one hypothesis it is: INIT, SQUEEZE, THETA, RHOPI, CHI, IOTA, ROUND, PERMUTE,
RDRC, RDLANE and RDSTATE. -/
theorem witness_normal : (withLanes [(0, 1), (24, 2)]).normal := by decide +kernel

/-- A block, for XORIN and ABSORB (XorinXorsTheBlock, XorinTwiceRestores, AbsorbIsXorinThenPermute); lanes 16 and 17 are
the boundary of XorinXorsTheBlock's two clauses. -/
theorem witness_block : State.reset.normal ∧ (countingBytes 136).length = 136 ∧ (16 : Fin 25).val < 17 ∧ 7 < 8 ∧
    17 ≤ (17 : Fin 25).val := by decide +kernel

/-- Both cases of the padding: `n = 135` and `n = 134`. -/
theorem witness_AbsorbfAbsorbsOnePaddedBlock : State.reset.normal ∧ (countingBytes 135).length = (135 : Fin 136).val ∧
    (countingBytes 134).length = (134 : Fin 136).val := by decide +kernel

/-- A message for each clause: a whole block, `q = 2`, `q = 1`. -/
theorem witness_PaddingFillsTheLastBlock : (countingBytes 136).length % 136 = 0 ∧
    136 - (countingBytes 134).length % 136 = 2 ∧ 136 - (countingBytes 135).length % 136 = 1 := by decide +kernel

theorem witness_WrlaneIsReadBack : State.reset.normal ∧ (countingBytes 8).length = 8 ∧ 7 < 8 ∧ (0 : Fin 25) ≠ 24 := by
  decide +kernel

theorem witness_ReadsAreIdempotent : State.reset.normal ∧ (Instr.rdlane 24 = .squeeze ∨ Instr.rdlane 24 = .rdstatus ∨
    (∃ k, Instr.rdlane 24 = .rdlane k) ∨ ∃ k, Instr.rdlane 24 = .rdrc k) :=
  ⟨by decide, .inr (.inr (.inl ⟨24, rfl⟩))⟩

/-- A lane changes: lane 24 by WRLANE, lane 16 by XORIN, lane 0 by IOTA, lane 10 by RHOPI. -/
theorem witness_LanesChangeOnlyWhereWritten :
    after (exec (.wrlane 24 (countingBytes 8)) State.reset) (fun t => readLane t.engine.lanes 24 != 0) = true ∧
    after (exec (.xorin (countingBytes 136)) State.reset) (fun t => readLane t.engine.lanes 16 != 0) = true ∧
    after (exec (.iota 0) State.reset) (fun t => readLane t.engine.lanes 0 != 0) = true ∧
    after (exec .rhopi (withLanes [(1, 1)])) (fun t => readLane t.engine.lanes 10 != 0) = true := by decide +kernel

/-- Engine 0 is in normal mode and engine 2 is not: both clauses. -/
theorem witness_MalformedCommandFaults :
    (threeGiven 0 (.command ⟨0x00001809#32, []⟩)).pending = ⟨0, .command ⟨0x00001809#32, []⟩⟩ :: [] ∧
    ((select 0 (threeGiven 0 (.command ⟨0x00001809#32, []⟩))).any fun t => t.engine.status.fault == 0#1) = true ∧
    ((select 2 (threeGiven 2 (.command ⟨0x00001809#32, []⟩))).any fun t => t.engine.status.fault == 1#1) = true ∧
    check ⟨0x00001809#32, []⟩ = some .argRange := by decide +kernel

/-- An ill-formed payload for each of the four commands. -/
theorem witness_WrongPayloadLengthFaults : State.reset.normal ∧ (countingBytes 135).length ≠ 136 ∧
    (countingBytes 2).length ≠ (3 : Fin 136).val ∧ (countingBytes 7).length ≠ 8 := by decide +kernel

/-- Engine 2 is faulted; INIT and the exact RDSTATUS are the two cases of the response. -/
theorem witness_FaultedModeRefuses :
    (threeGiven 2 (.command ⟨0x00000001#32, []⟩)).pending = ⟨2, .command ⟨0x00000001#32, []⟩⟩ :: [] ∧
    ((select 2 (threeGiven 2 (.command ⟨0x00000001#32, []⟩))).any fun t => t.engine.status.fault == 1#1) = true ∧
    ((select 2 (threeGiven 2 (.command ⟨0x0000001F#32, []⟩))).any fun t => t.engine.status.fault == 1#1) = true ∧
    (⟨0x00000001#32, []⟩ : Command) ≠ ⟨0x0000001F#32, []⟩ := by decide +kernel

/-- `STATUS` changes in both ways: engine 0 by a fault, engine 2 by a reset. -/
theorem witness_StatusChangesOnlyByFaultOrReset :
    after (step (threeGiven 0 (.command ⟨0x00000000#32, []⟩))) (fun t =>
      (t.engineAt 0).map Engine.status != (three.engineAt 0).map Engine.status && (t.engineAt 0).isSome) = true ∧
    after (step (threeGiven 2 .reset)) (fun t =>
      (t.engineAt 2).map Engine.status != (three.engineAt 2).map Engine.status && (t.engineAt 2).isSome) = true := by
  decide +kernel

/-- A legal state with a recorded fault, and its next state. -/
theorem witness_EveryStepKeepsStatusLegal : (threeGiven 0 (.command ⟨0x00000000#32, []⟩)).legal ∧
    after (step (threeGiven 0 (.command ⟨0x00000000#32, []⟩))) (fun _ => true) = true := by
  unfold State.legal
  decide +kernel

theorem witness_WellFormedCommandsNeverFault :
    (∀ e ∈ ({ State.resetWith 1 with pending := [⟨1, .command ⟨0x00000001#32, []⟩⟩, ⟨0, .reset⟩] } : State).engines,
      e.status.fault = 0#1) ∧
    (1 < (State.resetWith 1).engines.length ∧ ∃ c, HostEvent.command ⟨0x00000001#32, []⟩ = .command c ∧ check c = none) ∧
    (0 < (State.resetWith 1).engines.length ∧ HostEvent.reset = .reset) :=
  ⟨by decide +kernel, ⟨by decide, _, rfl, by decide +kernel⟩, by decide, rfl⟩

theorem witness_ResetEventClearsTheEngine : (threeGiven 2 .reset).pending = ⟨2, .reset⟩ :: [] ∧
    (select 2 (threeGiven 2 .reset)).isSome = true := by decide +kernel

theorem witness_EngineNeverActsOnItsOwn : State.reset.pending = [] := rfl

/-- The hypotheses OneResponsePerCommand and StepIsTransaction share, with each tag. -/
theorem witness_OneResponsePerCommand :
    (threeGiven 2 (.command ⟨0x00000010#32, []⟩)).pending = ⟨2, .command ⟨0x00000010#32, []⟩⟩ :: [] ∧
    (select 2 (threeGiven 2 (.command ⟨0x00000010#32, []⟩))).isSome = true ∧
    (select 0 (threeGiven 0 (.command ⟨0x00000010#32, []⟩))).isSome = true := by decide +kernel

/-- The hypotheses ActionsAreTakenInOrder and OtherEnginesAreUntouched share. -/
theorem witness_ActionsAreTakenInOrder : (threeGiven 1 .reset).pending = ⟨1, .reset⟩ :: [] ∧
    after (step (threeGiven 1 .reset)) (fun _ => true) = true ∧ 0 ≠ (⟨1, .reset⟩ : HostAction).engine := by
  decide +kernel

theorem witness_CommandSeesOnlyItsEngine : State.reset.engine = (State.resetWith 2).engine ∧
    State.reset ≠ State.resetWith 2 := by decide +kernel

theorem witness_HashCommandsComputeSha3 :
    ({ State.reset with pending := issue 0 (hashProgram [0x61#8]) } : State).normal ∧
    ({ State.reset with pending := issue 0 (hashProgram [0x61#8]) } : State).pending =
      issue State.reset.index (hashProgram [0x61#8]) ++ [] := by decide +kernel

end Sys2Proof.Tests
end

section
/-!
Scope (spec/00_scope.md): the byte order of a lane (R6), the rotation (R5), and that a step always completes (R10).
-/
namespace Sys2Proof.Machine

/-! ### The byte order of lanes and words (R6) -/

theorem getElem?_le64bytes (v : Lane) {k : Nat} (hk : k < 8) :
    (le64bytes v)[k]? = some (v.extractLsb' (8 * k) 8) := by
  simp [le64bytes, hk]

theorem getElem?_le32bytes (v : Word) {k : Nat} (hk : k < 4) :
    (le32bytes v)[k]? = some (v.extractLsb' (8 * k) 8) := by
  match k, hk with
  | 0, _ | 1, _ | 2, _ | 3, _ => rfl

@[simp] theorem le64_le64bytes (v : Lane) : le64 (le64bytes v) = v := by
  refine BitVec.eq_of_getLsbD_eq fun i hi => ?_
  have hbyte : (le64bytes v).getD (i / 8) 0#8 = v.extractLsb' (8 * (i / 8)) 8 := by
    rw [List.getD_eq_getElem?_getD, getElem?_le64bytes v (by omega), Option.getD_some]
  rw [getLsbD_le64 _ i hi, hbyte, BitVec.getLsbD_extractLsb', Nat.div_add_mod]
  simp [Nat.mod_lt]

/-- Byte `k` of the lane assembled from at most eight bytes is byte `k` of them. -/
theorem extractLsb'_le64 (bs : List Byte) {k : Nat} (hk : k < 8) :
    (le64 bs).extractLsb' (8 * k) 8 = bs.getD k 0#8 := by
  refine BitVec.eq_of_getLsbD_eq fun i hi => ?_
  have hdiv : (8 * k + i) / 8 = k := by omega
  have hmod : (8 * k + i) % 8 = i := by omega
  rw [BitVec.getLsbD_extractLsb', getLsbD_le64 _ _ (by omega), hdiv, hmod]
  simp [hi]

theorem le64bytes_le64 {bs : List Byte} (h : bs.length = 8) : le64bytes (le64 bs) = bs := by
  refine List.ext_getElem? fun k => ?_
  by_cases hk : k < 8
  · rw [getElem?_le64bytes _ hk, extractLsb'_le64 _ hk, List.getD_eq_getElem?_getD,
      List.getElem?_eq_getElem (h ▸ hk), Option.getD_some]
  · rw [List.getElem?_eq_none (by rw [length_le64bytes]; omega), List.getElem?_eq_none (by omega)]

/-- Settles O9: byte `k` of a lane by `getElem?_le64bytes`, and the two inverses bit by bit. -/
theorem laneBytesAreLittleEndian : Obligations.LaneBytesAreLittleEndian :=
  ⟨fun v _ hk => getElem?_le64bytes v hk,
    fun v => ⟨length_le64bytes v, le64_le64bytes v⟩,
    fun _ h => le64bytes_le64 h,
    fun v _ hk => getElem?_le32bytes v hk,
    length_le32bytes⟩

/-! ### The rotation (R5) and its offsets (R100) -/

/-- A bit at or above the offset comes from the left shift, a bit below it from the right shift. -/
theorem getLsbD_rotl (a : Lane) {d i : Nat} (hd : d < 64) (hi : i < 64) :
    (rotl a d).getLsbD i = a.getLsbD ((i + (64 - d)) % 64) := by
  unfold rotl
  rw [BitVec.getLsbD_or, BitVec.getLsbD_shiftLeft, BitVec.getLsbD_ushiftRight]
  by_cases h : i < d
  · have hsrc : (i + (64 - d)) % 64 = 64 - d + i := by omega
    simp [h, hsrc]
  · have hsrc : (i + (64 - d)) % 64 = i - d := by omega
    have hout : a.getLsbD (64 - d + i) = false := BitVec.getLsbD_of_ge _ _ (by omega)
    simp [h, hi, hsrc, hout]

@[simp] theorem rotl_zero (a : Lane) : rotl a 0 = a := by
  refine BitVec.eq_of_getLsbD_eq fun i hi => ?_
  rw [getLsbD_rotl a (by decide) hi, Nat.sub_zero, Nat.add_mod_right, Nat.mod_eq_of_lt hi]

/-- No step of the rho and pi traversal rotates by 0. -/
theorem rhoOffset_range : ∀ t, t < 24 → 1 ≤ rhoOffset t ∧ rhoOffset t ≤ 63 := by decide

/-- Settles O10: the bits of a rotation by `getLsbD_rotl`, the offsets by their 24 values. -/
theorem rotateLeftMovesBits : Obligations.RotateLeftMovesBits :=
  ⟨fun a _ _ hd hi => getLsbD_rotl a hd hi, rotl_zero, rhoOffset_range⟩

/-! ### A step completes (R10) -/

/-- Each of the three things a command can do is a next state. -/
theorem exec_eq_next (i : Instr) (s : State) : ∃ t, exec i s = .next t := by
  obtain ⟨-, -, h⟩ | ⟨-, -, _, _, h⟩ | ⟨-, -, h⟩ := exec_cases i s
  · exact ⟨_, h⟩
  · exact ⟨_, h⟩
  · exact ⟨_, h⟩

theorem runEvent_eq_next (ev : HostEvent) (s : State) : ∃ t, runEvent ev s = .next t := by
  obtain ⟨-, h⟩ | ⟨_, -, ⟨i, -, h⟩ | ⟨_, -, h⟩⟩ := runEvent_cases ev s
  · exact ⟨_, h⟩
  · exact h ▸ exec_eq_next i s
  · exact ⟨_, h⟩

/-- Settles O41: of the cases of a step, only the engine that is not there stops it. -/
theorem everyCommandCompletes : Obligations.EveryCommandCompletes := by
  intro s
  obtain ⟨-, h⟩ | ⟨act, rest, hp, ⟨hsel, h⟩ | ⟨_, -, h⟩⟩ := step_cases s
  · exact .inl ⟨_, h⟩
  · exact .inr ⟨act, rest, hp, (select_eq_none_iff _ _).1 hsel, h⟩
  · exact .inl (h ▸ runEvent_eq_next _ _)

end Sys2Proof.Machine
end

section
/-!
State (spec/10_state.md): legal `STATUS` and what changes it (R23, R24), the lanes a command writes (R22), reset (R29),
and the separation of the engines (R30).
-/
namespace Sys2Proof.Machine

/-! ### Reset (R29) -/

/-- Every engine of a platform after reset is an engine after reset. -/
theorem eq_reset_of_mem_engines_resetWith {n : Nat} {e : Engine} (h : e ∈ (State.resetWith n).engines) :
    e = Engine.reset := by
  obtain rfl | h := List.mem_cons.1 h
  · rfl
  · exact List.eq_of_mem_replicate h

/-- `STATUS` after reset is legal. -/
theorem legal_statusReset : Status.reset.legal = true := rfl

/-- Settles O36: every engine's `STATUS` is the reset value. -/
theorem resetIsLegal : Obligations.ResetIsLegal := by
  intro n e he
  rw [eq_reset_of_mem_engines_resetWith he]
  exact legal_statusReset

/-- Settles O38: the engines are counted, and each of them is `Engine.reset`. -/
theorem resetValues : Obligations.ResetValues := by
  intro n
  refine ⟨by simp [State.resetWith, State.engines], fun e he => ?_⟩
  rw [eq_reset_of_mem_engines_resetWith he]
  exact ⟨readLane_zeroLanes, rfl⟩

/-! ### The engines of a platform (R30) -/

/-- Settles O2, by the two lemmas that say when `select` answers and what it leaves as it was. -/
theorem selectChangesNoEngine : Obligations.SelectChangesNoEngine := by
  refine fun e s => ⟨fun he => ?_, (select_eq_none_iff e s).2⟩
  cases hsel : select e s with
  | none => exact absurd ((select_eq_none_iff e s).1 hsel) (by omega)
  | some s1 =>
    obtain ⟨-, hengines, hindex, hengine, hpending, hresponses⟩ := select_eq_some hsel
    exact ⟨s1, rfl, hengines, hindex, hengine, hpending, hresponses⟩

/-- Where the engines around the addressed one are the same, only the addressed one can differ. -/
theorem engineAt_of_ne_index {s t : State} (hb : t.before = s.before) (ha : t.after = s.after) {j : Nat}
    (hj : j ≠ s.index) : t.engineAt j = s.engineAt j := by
  unfold State.engineAt State.engines
  rw [hb, ha]
  obtain hlt | hgt := Nat.lt_or_gt_of_ne hj
  · rw [List.getElem?_append_left hlt, List.getElem?_append_left hlt]
  · have hpos : j - s.before.length ≠ 0 := Nat.sub_ne_zero_of_lt hgt
    rw [List.getElem?_append_right hgt.le, List.getElem?_append_right hgt.le, List.getElem?_cons,
      List.getElem?_cons, if_neg hpos, if_neg hpos]

/-- What a command makes of the addressed engine, and what it answers, is fixed by that engine; the rest of the
platform, which it keeps, has no part in it. -/
theorem exec_eq_of_engine (i : Instr) (e : Engine) :
    ∃ g tag bytes, ∀ s : State, s.engine = e →
      exec i s = .next { s with engine := g, responses := s.responses ++ [⟨s.index, tag, bytes⟩] } := by
  by_cases hr : i = .rdstatus
  · subst hr
    exact ⟨e, .ok, le32bytes (statusWord e.status), by rintro s rfl; rfl⟩
  · cases hf : faulted e with
    | true =>
      refine ⟨e, .err, [], ?_⟩
      rintro s rfl
      rw [exec_eq_runChecked hr, runChecked_of_faulted hf]
      rfl
    | false =>
      have hn := (faulted_eq_false_iff e).1 hf
      cases hw : i.wellFormed with
      | true =>
        refine ⟨{ e with lanes := (commandBody i e.lanes).1 }, .ok, (commandBody i e.lanes).2, ?_⟩
        rintro s rfl
        exact exec_of_normal hn hr hw
      | false =>
        refine ⟨{ e with status := faultStatus .payloadLength (encode i) }, .err, [], ?_⟩
        rintro s rfl
        rw [exec_eq_runChecked hr, runChecked_of_not_wellFormed hn hw]
        rfl

/-- Settles O45: both states have the engine that `exec_eq_of_engine` is about. -/
theorem commandSeesOnlyItsEngine : Obligations.CommandSeesOnlyItsEngine := by
  intro i s s' h
  obtain ⟨g, tag, bytes, hexec⟩ := exec_eq_of_engine i s'.engine
  exact ⟨g, tag, bytes, hexec s h, hexec s' rfl⟩

theorem exec_frame {i : Instr} {s t : State} (h : exec i s = .next t) :
    t.before = s.before ∧ t.after = s.after := by
  obtain ⟨g, tag, bytes, hexec⟩ := exec_eq_of_engine i s.engine
  cases (hexec s rfl).symm.trans h
  exact ⟨rfl, rfl⟩

theorem rejectCommand_frame (cause : Cause) (c : Command) (s : State) :
    (rejectCommand cause c s).before = s.before ∧ (rejectCommand cause c s).after = s.after := by
  obtain ⟨-, h⟩ | ⟨-, h⟩ := rejectCommand_cases cause c s
  · exact h ▸ ⟨rfl, rfl⟩
  · exact h ▸ ⟨rfl, rfl⟩

theorem runEvent_frame {ev : HostEvent} {s t : State} (h : runEvent ev s = .next t) :
    t.before = s.before ∧ t.after = s.after := by
  obtain ⟨-, hev⟩ | ⟨c, -, ⟨i, -, hev⟩ | ⟨cause, -, hev⟩⟩ := runEvent_cases ev s
  · cases hev.symm.trans h
    exact ⟨rfl, rfl⟩
  · exact exec_frame (hev.symm.trans h)
  · cases hev.symm.trans h
    exact rejectCommand_frame cause c s

/-- With no action pending, a step keeps the state (R54). -/
theorem step_of_pending_nil {s : State} (hp : s.pending = []) : step s = .next s := by
  obtain ⟨-, hstep⟩ | ⟨act, rest, hcons, -⟩ := step_cases s
  · exact hstep
  · simp [hp] at hcons

/-- A step that takes an action gives its event to the engine it is addressed to, with the focus moved there. -/
theorem step_of_pending {s t : State} {act : HostAction} {rest : List HostAction}
    (hp : s.pending = act :: rest) (h : step s = .next t) :
    ∃ s', select act.engine s = some s' ∧ runEvent act.event { s' with pending := rest } = .next t := by
  obtain ⟨hnil, -⟩ | ⟨act', rest', hp', ⟨-, hstep⟩ | ⟨s', hsel, hstep⟩⟩ := step_cases s
  · simp [hnil] at hp
  · simp [hstep] at h
  · cases hp.symm.trans hp'
    exact ⟨s', hsel, hstep.symm.trans h⟩

/-- Settles O44: selecting keeps the engines, and the event keeps those before and after the addressed one. -/
theorem otherEnginesAreUntouched : Obligations.OtherEnginesAreUntouched := by
  intro s t act rest j hp hstep
  obtain ⟨s', hsel, hev⟩ := step_of_pending hp hstep
  obtain ⟨-, hengines, hindex, -⟩ := select_eq_some hsel
  obtain ⟨hb, ha⟩ := runEvent_frame hev
  refine ⟨?_, fun hj => ?_⟩
  · rw [← hengines]
    simp [State.engines, hb, ha]
  · have hother : t.engineAt j = s'.engineAt j := engineAt_of_ne_index hb ha (hindex ▸ hj)
    rw [hother]
    unfold State.engineAt
    rw [hengines]

/-- After a step that takes an action, the addressed engine is the one the action named. -/
theorem engineAt_of_step {s t : State} {act : HostAction} {rest : List HostAction}
    (hp : s.pending = act :: rest) (h : step s = .next t) : t.engineAt act.engine = some t.engine := by
  obtain ⟨s', hsel, hev⟩ := step_of_pending hp h
  obtain ⟨-, -, hindex, -⟩ := select_eq_some hsel
  have hindex' : t.index = act.engine := (congrArg List.length (runEvent_frame hev).1).trans hindex
  exact hindex' ▸ engineAt_index t

/-! ### What changes `STATUS` (R23, R24) -/

/-- An instruction read from a payload of the required length is well formed. -/
theorem wellFormed_of_instrOf {op arg : Nat} {p : List Byte} {i : Instr} (h : instrOf op arg p = some i)
    (hl : p.length = plen op arg) : i.wellFormed = true := by
  unfold instrOf at h
  split at h <;> simp only [Option.dite_none_right_eq_some, Option.some.injEq, reduceCtorEq] at h
  -- XORIN and ABSORB; ABSORBF and WRLANE, whose `ARG` is in its range; the other `ARG` in its range; no operand
  case h_2 | h_3 => exact h ▸ beq_iff_eq.2 hl
  case h_4 | h_14 =>
    obtain ⟨_, rfl⟩ := h
    exact beq_iff_eq.2 hl
  case h_6 | h_10 | h_11 | h_13 =>
    obtain ⟨_, rfl⟩ := h
    rfl
  all_goals exact h ▸ rfl

theorem length_of_check {c : Command} (h : check c = none) :
    c.payload.length = plen c.opc.toNat c.arg.toNat := by
  unfold check at h
  split_ifs at h with _ _ _ hl
  exact not_not.1 hl

theorem wellFormed_of_decode {c : Command} {i : Instr} (h : decode c = .ok i) : i.wellFormed = true := by
  obtain ⟨hc, hi⟩ := (decode_eq_ok_iff c i).1 h
  exact wellFormed_of_instrOf hi (length_of_check hc)

/-- A well-formed command is refused or completes, and neither writes `STATUS`. -/
theorem exec_status_of_wellFormed {i : Instr} (hw : i.wellFormed = true) {s t : State}
    (h : exec i s = .next t) : t.engine.status = s.engine.status := by
  obtain ⟨-, -, hexec⟩ | ⟨-, -, a, bytes, hexec⟩ | ⟨-, hill, -⟩ := exec_cases i s
  · cases hexec.symm.trans h
    rfl
  · cases hexec.symm.trans h
    rfl
  · simp [hw] at hill

/-- An event changes `STATUS` of the addressed engine only if it is reset, or a command whose check fails. -/
theorem runEvent_status {ev : HostEvent} {s t : State} (h : runEvent ev s = .next t)
    (hne : t.engine.status ≠ s.engine.status) :
    (ev = .reset ∧ t.engine.status = Status.reset) ∨
    (s.normal ∧ ∃ c cause, ev = .command c ∧ check c = some cause ∧ t.engine.status = faultStatus cause c) := by
  obtain ⟨hreset, hev⟩ | ⟨c, hc, ⟨i, hi, hev⟩ | ⟨cause, hcause, hev⟩⟩ := runEvent_cases ev s
  · cases hev.symm.trans h
    exact .inl ⟨hreset, rfl⟩
  · exact absurd (exec_status_of_wellFormed (wellFormed_of_decode hi) (hev.symm.trans h)) hne
  · cases hev.symm.trans h
    obtain ⟨-, hrej⟩ | ⟨hf, hrej⟩ := rejectCommand_cases cause c s
    · rw [hrej] at hne
      exact absurd rfl hne
    · exact .inr ⟨(faulted_eq_false_iff _).1 hf, c, cause, hc, hcause, by rw [hrej, raiseFault_status]⟩

/-- Settles O34: an engine the action does not name is kept, and the one it names is as `runEvent_status` says. -/
theorem statusChangesOnlyByFaultOrReset : Obligations.StatusChangesOnlyByFaultOrReset := by
  intro s t j e e' hstep he he' hne
  cases hp : s.pending with
  | nil =>
    cases (step_of_pending_nil hp).symm.trans hstep
    cases he.symm.trans he'
    exact absurd rfl hne
  | cons act rest =>
    obtain ⟨j', ev⟩ := act
    by_cases hj : j = j'
    · subst hj
      obtain ⟨s', hsel, hev⟩ := step_of_pending hp hstep
      obtain ⟨-, -, -, hengine, -⟩ := select_eq_some hsel
      cases hengine.symm.trans he
      cases (engineAt_of_step hp hstep).symm.trans he'
      obtain ⟨rfl, hst⟩ | ⟨hn, c, cause, rfl, hc, hst⟩ := runEvent_status hev hne
      · exact .inl ⟨rest, rfl, hst⟩
      · exact .inr ⟨hn, c, cause, rest, rfl, hc, hst⟩
    · have hkept := (otherEnginesAreUntouched s t _ rest j hp hstep).2 hj
      cases (hkept.trans he).symm.trans he'
      exact absurd rfl hne

/-- A recorded fault is legal: the check reports a cause only for an `OPC` and `ARG` that can have it. -/
theorem legal_faultStatus {c : Command} {cause : Cause} (h : check c = some cause) :
    (faultStatus cause c).legal = true := by
  unfold check at h
  split_ifs at h with hop hrsv harg hlen <;> cases h
  · simp [Status.legal, faultStatus, Cause.code, hop]
  · simp [Status.legal, faultStatus, Cause.code, hop]
  · simp [Status.legal, faultStatus, Cause.code, hop, harg]
  · simp [Status.legal, faultStatus, Cause.code, hop, harg]

theorem engines_length_of_step {s t : State} (h : step s = .next t) :
    t.engines.length = s.engines.length := by
  cases hp : s.pending with
  | nil =>
    cases (step_of_pending_nil hp).symm.trans h
    rfl
  | cons act rest => exact (otherEnginesAreUntouched s t act rest 0 hp h).1

/-- Settles O35: `STATUS` is the one before the step, or by O34 that of reset or of a recorded fault. -/
theorem everyStepKeepsStatusLegal : Obligations.EveryStepKeepsStatusLegal := by
  intro s t hs hstep e' he'
  obtain ⟨j, hj, rfl⟩ := List.getElem_of_mem he'
  have hj' : j < s.engines.length := engines_length_of_step hstep ▸ hj
  have hold : s.engines[j].status.legal = true := hs _ (List.getElem_mem hj')
  by_cases heq : t.engines[j].status = s.engines[j].status
  · exact heq ▸ hold
  · obtain ⟨_, -, hst⟩ | ⟨-, c, cause, _, -, hc, hst⟩ := statusChangesOnlyByFaultOrReset s t j _ _ hstep
      (List.getElem?_eq_getElem hj') (List.getElem?_eq_getElem hj) heq
    · exact hst ▸ legal_statusReset
    · exact hst ▸ legal_faultStatus hc

/-! ### Which lanes a command writes (R22) -/

/-- A command leaves the lanes as they were, or as its body gives them. -/
theorem exec_lanes {i : Instr} {s t : State} (h : exec i s = .next t) :
    t.engine.lanes = s.engine.lanes ∨ t.engine.lanes = (commandBody i s.engine.lanes).1 := by
  by_cases hr : i = .rdstatus
  · subst hr
    cases (exec_rdstatus s).symm.trans h
    exact .inl rfl
  · rw [exec_eq_runChecked hr, runChecked_eq] at h
    split_ifs at h <;> cases h
    · exact .inl rfl
    · exact .inr rfl
    · exact .inl rfl

theorem readLane_foldl_writeLane_of_ne {k : Fin 25} (f : Fin 25 × Fin 25 × Nat → Lane)
    (ws : List (Fin 25 × Fin 25 × Nat)) (hk : ∀ w ∈ ws, k ≠ w.2.1) (b : Lanes) :
    readLane (ws.foldl (fun acc w => writeLane acc w.2.1 (f w)) b) k = readLane b k := by
  induction ws generalizing b with
  | nil => rfl
  | cons w ws ih =>
    obtain ⟨hw, hws⟩ := List.forall_mem_cons.1 hk
    rw [List.foldl_cons, ih hws, readLane_writeLane_ne _ _ hw]

/-- Lane 0 is at no place of the traversal (R102). -/
@[simp] theorem readLane_rhoPi_zero (a : Lanes) : readLane (rhoPi a) 0 = readLane a 0 := by
  rw [rhoPi_eq_writes]
  exact readLane_foldl_writeLane_of_ne _ _ (by decide) a

/-- Settles O30: where the lanes are the body's, the commands that write some lanes only are taken one by one. -/
theorem lanesChangeOnlyWhereWritten : Obligations.LanesChangeOnlyWhereWritten := by
  intro i s t k h hne
  obtain hkept | hbody := exec_lanes h
  · rw [hkept] at hne
    exact absurd rfl hne
  rw [hbody] at hne
  cases i with
  | rhopi =>
    rintro rfl
    exact hne (readLane_rhoPi_zero _)
  | xorin p =>
    by_contra hk
    exact hne ((readLane_xorBlock _ _ _).trans (if_neg hk))
  | iota j =>
    by_contra hk
    exact hne (readLane_writeLane_ne _ _ hk)
  | wrlane j p =>
    by_contra hk
    exact hne (readLane_writeLane_ne _ _ hk)
  | squeeze | rdlane | rdrc | rdstatus => exact hne rfl
  | init | absorb | absorbf | permute | round | theta | chi => trivial

end Sys2Proof.Machine
end

section
/-!
Memory and the host's side (spec/20_memory.md): the reading commands (R46), the order of the host's actions (R48), and
that the engine never acts on its own (R54).
-/
namespace Sys2Proof.Machine

/-! ### The reading commands (R46) -/

/-- In normal mode a reading command completes and keeps the engine. -/
theorem exec_of_reading {s : State} (hn : s.normal) {i : Instr}
    (hi : i = .squeeze ∨ i = .rdstatus ∨ (∃ k, i = .rdlane k) ∨ ∃ k, i = .rdrc k) :
    ∃ bytes, exec i s = .next (s.answered s.engine.lanes bytes) := by
  obtain rfl | rfl | ⟨k, rfl⟩ | ⟨k, rfl⟩ := hi
  · exact ⟨_, exec_of_normal hn Instr.noConfusion rfl⟩
  · exact ⟨_, exec_rdstatus s⟩
  · exact ⟨_, exec_of_normal hn Instr.noConfusion rfl⟩
  · exact ⟨_, exec_of_normal hn Instr.noConfusion rfl⟩

/-- A command that completes and keeps the engine answers the same bytes when it is issued again, since what it does is
fixed by the engine. -/
theorem exec_again {i : Instr} {s : State} {bytes : List Byte}
    (h : exec i s = .next (s.answered s.engine.lanes bytes)) :
    exec i (s.answered s.engine.lanes bytes) =
      .next ((s.answered s.engine.lanes bytes).answered s.engine.lanes bytes) := by
  obtain ⟨g, tag, bytes', hexec⟩ := exec_eq_of_engine i s.engine
  have hfirst := (hexec s rfl).symm.trans h
  simp only [State.answered, Host.Outcome.next.injEq, State.mk.injEq, true_and, List.append_cancel_left_eq,
    List.cons.injEq, Response.mk.injEq, and_true] at hfirst
  obtain ⟨rfl, rfl, rfl⟩ := hfirst
  exact hexec _ rfl

/-- Settles O29: a reading command keeps the engine, so it answers the same again. -/
theorem readsAreIdempotent : Obligations.ReadsAreIdempotent := by
  intro s i hn hi
  obtain ⟨bytes, h⟩ := exec_of_reading hn hi
  exact ⟨bytes, h, exec_again h⟩

/-! ### The order of the host's actions (R48) -/

/-- A command takes no pending action and gives one response, after those given before. -/
theorem exec_pending_responses {i : Instr} {s t : State} (h : exec i s = .next t) :
    t.pending = s.pending ∧ ∃ r, t.responses = s.responses ++ [r] := by
  obtain ⟨g, tag, bytes, hexec⟩ := exec_eq_of_engine i s.engine
  cases (hexec s rfl).symm.trans h
  exact ⟨rfl, _, rfl⟩

theorem rejectCommand_pending_responses (cause : Cause) (c : Command) (s : State) :
    (rejectCommand cause c s).pending = s.pending ∧ ∃ r, (rejectCommand cause c s).responses = s.responses ++ [r] := by
  obtain ⟨-, h⟩ | ⟨-, h⟩ := rejectCommand_cases cause c s
  · exact h ▸ ⟨rfl, _, rfl⟩
  · exact h ▸ ⟨rfl, _, rfl⟩

/-- An event takes no pending action; a reset gives no response, and a command gives one. -/
theorem runEvent_pending_responses {ev : HostEvent} {s t : State} (h : runEvent ev s = .next t) :
    t.pending = s.pending ∧
      ((ev = .reset ∧ t.responses = s.responses) ∨ ((∃ c, ev = .command c) ∧ ∃ r, t.responses = s.responses ++ [r])) := by
  obtain ⟨hreset, hev⟩ | ⟨c, hc, ⟨i, -, hev⟩ | ⟨cause, -, hev⟩⟩ := runEvent_cases ev s
  · cases hev.symm.trans h
    exact ⟨rfl, .inl ⟨hreset, rfl⟩⟩
  · exact (exec_pending_responses (hev.symm.trans h)).imp_right fun hr => .inr ⟨⟨c, hc⟩, hr⟩
  · cases hev.symm.trans h
    exact (rejectCommand_pending_responses cause c s).imp_right fun hr => .inr ⟨⟨c, hc⟩, hr⟩

/-- Settles O43: selecting keeps the responses, and the event keeps the later actions and adds at most one response. -/
theorem actionsAreTakenInOrder : Obligations.ActionsAreTakenInOrder := by
  intro s t act rest hp hstep
  obtain ⟨s', hsel, hev⟩ := step_of_pending hp hstep
  obtain ⟨-, -, -, -, -, hresponses⟩ := select_eq_some hsel
  obtain ⟨hpending, ⟨-, hr⟩ | ⟨-, r, hr⟩⟩ := runEvent_pending_responses hev
  · rw [← hresponses, hr]
    exact ⟨hpending, List.prefix_rfl, Nat.le_succ _⟩
  · rw [← hresponses, hr]
    exact ⟨hpending, List.prefix_append _ _, List.length_append.le⟩

/-! ### The engine never acts on its own (R54) -/

/-- Settles O40: of the cases of a step, the one with no action pending keeps the state. -/
theorem engineNeverActsOnItsOwn : Obligations.EngineNeverActsOnItsOwn :=
  fun _ hp => step_of_pending_nil hp

end Sys2Proof.Machine
end

section
/-!
Encoding (spec/30_encoding.md): the validity check (R69), the encoder and the decoder (R61, R64, R70), the encoding
examples (R74), the byte-serial form (R62, R71), the command of a step (R70), a payload of the wrong length (R68), RDSTATE
(R73), `Exec(S, W, P)` (R70), and the one response of a command (R60, R64).
-/
namespace Sys2Proof

/-! ### The validity check (R69) -/

theorem assigned_eq_true_iff (op : Nat) :
    assigned op = true ↔
      op ∈ [0x01, 0x02, 0x03, 0x04, 0x08, 0x09, 0x0A, 0x0B, 0x0C, 0x0D, 0x0E, 0x10, 0x11, 0x12, 0x1F] :=
  List.contains_iff_mem

theorem argOK_eq_true_iff (op arg : Nat) :
    argOK op arg = true ↔
      if op = 0x04 then arg ≤ 135
      else if op ∈ [0x09, 0x0D, 0x0E] then arg ≤ 23
      else if op ∈ [0x11, 0x12] then arg ≤ 24
      else arg = 0 := by
  unfold argOK
  simp only [List.mem_cons, List.not_mem_nil, or_false]
  split_ifs <;> exact decide_eq_true_iff

theorem plen_eq (op arg : Nat) :
    plen op arg = if op ∈ [0x02, 0x03] then 136 else if op = 0x04 then arg else if op = 0x12 then 8 else 0 := by
  simp [plen]

/-- The check passes exactly where none of its four tests fails. -/
theorem check_eq_none_iff (c : Command) :
    check c = none ↔ assigned c.opc.toNat = true ∧ c.rsv = 0#16 ∧ argOK c.opc.toNat c.arg.toNat = true ∧
      c.payload.length = plen c.opc.toNat c.arg.toNat := by
  simp [check, ite_eq_iff]

/-- Settles O6: its conditions are the check's own, read as propositions, and the check tests them in this order. -/
theorem firstCauseIsReported : Obligations.FirstCauseIsReported := by
  refine ⟨fun c => ?_, rfl, rfl, rfl, rfl⟩
  intro op arg known argFits required
  have hknown : assigned op = true ↔ known := assigned_eq_true_iff op
  have hfits : argOK op arg = true ↔ argFits := argOK_eq_true_iff op arg
  have hrequired : plen op arg = required := plen_eq op arg
  rw [← hknown, ← hfits, ← hrequired]
  refine ⟨fun hk => ?_, fun ⟨hk, hr⟩ => ?_, fun ⟨hk, hr, ha⟩ => ?_, fun ⟨hk, hr, ha, hl⟩ => ?_,
    (check_eq_none_iff c).2⟩
  · exact if_pos (Bool.eq_false_of_not_eq_true hk)
  · exact (if_neg (ne_false_of_eq_true hk)).trans (if_pos hr)
  · exact (if_neg (ne_false_of_eq_true hk)).trans ((if_neg (not_not.2 hr)).trans
      (if_pos (Bool.eq_false_of_not_eq_true ha)))
  · exact (if_neg (ne_false_of_eq_true hk)).trans ((if_neg (not_not.2 hr)).trans
      ((if_neg (ne_false_of_eq_true ha)).trans (if_pos hl)))

/-! ### The fields of an instruction's command (R61, R63) -/

@[simp] theorem opc_encode (i : Instr) : (encode i).opc = i.opcode := opc_commandWord _ _ _
@[simp] theorem arg_encode (i : Instr) : (encode i).arg = i.arg := arg_commandWord _ _ _
@[simp] theorem payload_encode (i : Instr) : (encode i).payload = i.payload := rfl

/-- A command with `RSV = 0` is the encoding of the instruction that has its other fields. -/
theorem encode_eq_of_fields {c : Command} {i : Instr} (hr : c.rsv = 0#16) (ho : i.opcode = c.opc)
    (ha : i.arg = c.arg) (hp : i.payload = c.payload) : encode i = c := by
  have hword : commandWord i.opcode i.arg = c.word := by rw [ho, ha, word_fields c, hr, commandWord]
  rw [encode, hword, hp]

/-- An operand fits into the eight bits of `ARG`. -/
theorem toNat_operand {m : Nat} (hm : m ≤ 256) (n : Fin m) : (BitVec.ofNat 8 n.val).toNat = n.val :=
  Nat.mod_eq_of_lt (by omega)

/-- An operand is read back from `ARG`. -/
theorem dite_operand {m : Nat} (hm : m ≤ 256) (n : Fin m) (f : Fin m → Instr) :
    (if h : (BitVec.ofNat 8 n.val).toNat < m then some (f ⟨_, h⟩) else none) = some (f n) := by
  simp [toNat_operand hm]

/-! ### Encoding, then decoding -/

/-- The fields of an instruction give it back. -/
theorem instrOf_fields (i : Instr) : instrOf i.opcode.toNat i.arg.toNat i.payload = some i := by
  cases i with
  | init | xorin | absorb | permute | theta | rhopi | chi | squeeze | rdstatus => rfl
  | absorbf n p => exact dite_operand (by decide) n (.absorbf · p)
  | round n => exact dite_operand (by decide) n .round
  | iota n => exact dite_operand (by decide) n .iota
  | rdrc n => exact dite_operand (by decide) n .rdrc
  | rdlane n => exact dite_operand (by decide) n .rdlane
  | wrlane n p => exact dite_operand (by decide) n (.wrlane · p)

theorem decode_encode {i : Instr} (h : i.wellFormed = true) : decode (encode i) = .ok i := by
  rw [decode_eq_ok_iff, opc_encode, arg_encode, payload_encode]
  exact ⟨check_encode_of_wellFormed h, instrOf_fields i⟩

/-- Settles O4: the check of an encoded instruction passes, and its fields give it back. -/
theorem decodeOfEncode : Obligations.DecodeOfEncode := fun _ => decode_encode

/-- The longest ABSORBF, whatever its payload holds (R74). -/
theorem decode_absorbf_135 {p : List Byte} (hp : p.length = 135) :
    decode ⟨0x00008704#32, p⟩ = .ok (.absorbf 135 p) := by
  have hword : encode (.absorbf 135 p) = ⟨0x00008704#32, p⟩ :=
    congrArg (Command.mk · p) (by decide : commandWord 0x04#8 135#8 = 0x00008704#32)
  exact hword ▸ decode_encode (beq_iff_eq.2 hp)

/-- Settles O3: each word is the encoding of its instruction, and the two malformed ones are checked. -/
theorem handWrittenWordsDecode : Obligations.HandWrittenWordsDecode :=
  ⟨decode_encode (i := .init) rfl, decode_encode (i := .absorbf 3 [0x61#8, 0x62#8, 0x63#8]) rfl,
    fun _ hp => decode_absorbf_135 hp,
    decode_encode (i := .round 23) rfl, decode_encode (i := .iota 5) rfl, decode_encode (i := .rdrc 0) rfl,
    decode_encode (i := .rdlane 24) rfl, rfl,
    decode_encode (i := .wrlane 0 [1#8, 0#8, 0#8, 0#8, 0#8, 0#8, 0#8, 0#8]) rfl,
    decode_encode (i := .rdstatus) rfl, (decode_eq_error_iff _ _).2 rfl,
    decode_encode (i := .round 1) rfl, (decode_eq_error_iff _ _).2 rfl⟩

/-! ### Decoding, then encoding -/

/-- The instruction read from fields whose `ARG` is in its range and whose payload is of its length has these fields. -/
theorem fields_of_instrOf {op arg : Nat} {p : List Byte} {i : Instr} (h : instrOf op arg p = some i)
    (ha : argOK op arg = true) (hl : p.length = plen op arg) :
    i.opcode.toNat = op ∧ i.arg.toNat = arg ∧ i.payload = p := by
  unfold instrOf at h
  split at h <;> simp only [Option.dite_none_right_eq_some, Option.some.injEq, reduceCtorEq] at h
  -- XORIN and ABSORB; ABSORBF and WRLANE, which take an operand too; those that take only an operand; the others
  case h_2 | h_3 =>
    subst h
    exact ⟨rfl, (of_decide_eq_true ha).symm, rfl⟩
  case h_4 | h_14 =>
    obtain ⟨harg, rfl⟩ := h
    exact ⟨rfl, toNat_operand (by decide) ⟨arg, harg⟩, rfl⟩
  case h_6 | h_10 | h_11 | h_13 =>
    obtain ⟨harg, rfl⟩ := h
    exact ⟨rfl, toNat_operand (by decide) ⟨arg, harg⟩, (List.length_eq_zero_iff.1 hl).symm⟩
  all_goals
    subst h
    exact ⟨rfl, (of_decide_eq_true ha).symm, (List.length_eq_zero_iff.1 hl).symm⟩

/-- A command decodes to `i` exactly where its check passes and its fields are those of `i`. -/
theorem decode_eq_ok_iff_fields (c : Command) (i : Instr) :
    decode c = .ok i ↔ check c = none ∧ i.opcode = c.opc ∧ i.arg = c.arg ∧ i.payload = c.payload := by
  rw [decode_eq_ok_iff]
  refine and_congr_right fun hc => ⟨fun hi => ?_, fun ⟨ho, ha, hp⟩ => ho ▸ ha ▸ hp ▸ instrOf_fields i⟩
  obtain ⟨-, -, harg, hlen⟩ := (check_eq_none_iff c).1 hc
  obtain ⟨ho, ha, hp⟩ := fields_of_instrOf hi harg hlen
  exact ⟨BitVec.eq_of_toNat_eq ho, BitVec.eq_of_toNat_eq ha, hp⟩

theorem encode_of_decode {c : Command} {i : Instr} (h : decode c = .ok i) : encode i = c := by
  obtain ⟨hc, ho, ha, hp⟩ := (decode_eq_ok_iff_fields c i).1 h
  obtain ⟨-, hr, -, -⟩ := (check_eq_none_iff c).1 hc
  exact encode_eq_of_fields hr ho ha hp

/-- Settles O5: `RSV` is 0 and the other fields are the instruction's. -/
theorem encodeOfDecode : Obligations.EncodeOfDecode :=
  fun _ _ h => ⟨encode_of_decode h, Machine.wellFormed_of_decode h⟩

/-- Settles O7: `decode_eq_error_iff`, and where the check passes the instruction that has the command's fields. -/
theorem decoderFollowsTheCheck : Obligations.DecoderFollowsTheCheck := by
  refine fun c => ⟨fun cause => (decode_eq_error_iff c cause).symm, fun hc => ?_, fun ⟨i, hi, _⟩ => ?_⟩
  · obtain ⟨i, hi⟩ := instrOf_of_check hc
    have hd : decode c = .ok i := (decode_eq_ok_iff c i).2 ⟨hc, hi⟩
    exact ⟨i, hd, ((decode_eq_ok_iff_fields c i).1 hd).2⟩
  · exact ((decode_eq_ok_iff c i).1 hi).1

/-! ### The byte-serial form (R62, R71) -/

/-- The four bytes of a word, put together again, are the word. -/
@[simp] theorem le32_extractLsb' (v : Word) :
    le32 (v.extractLsb' 0 8) (v.extractLsb' 8 8) (v.extractLsb' 16 8) (v.extractLsb' 24 8) = v := by
  unfold le32
  rw [BitVec.extractLsb'_append_extractLsb'_eq_extractLsb' (len₁ := 8) (start₁ := 16) rfl,
    BitVec.extractLsb'_append_extractLsb'_eq_extractLsb' (len₁ := 8) (start₁ := 8) rfl,
    BitVec.extractLsb'_append_extractLsb'_eq_extractLsb' (len₁ := 8) (start₁ := 0) rfl,
    BitVec.extractLsb'_eq_self]

@[simp] theorem deserialize_serialize (c : Command) : deserialize (serialize c) = some c := by
  simp [serialize, le32bytes, deserialize]

theorem length_serialize (c : Command) : (serialize c).length = 4 + c.payload.length := by
  simp [serialize, Machine.length_le32bytes]

theorem serialLength_of_check {c : Command} (h : check c = none) :
    serialLength c.opc c.arg = 4 + c.payload.length := by
  obtain ⟨hop, -, -, hlen⟩ := (check_eq_none_iff c).1 h
  rw [serialLength, if_pos hop, hlen]

/-- Settles O8: the bytes of the word are put together again, and the check gives the payload's length. -/
theorem serialFormIsReadBack : Obligations.SerialFormIsReadBack :=
  fun c => ⟨rfl, deserialize_serialize c, fun h => (length_serialize c).trans (serialLength_of_check h).symm⟩

end Sys2Proof

namespace Sys2Proof.Machine

/-! ### The command of a step (R70) -/

/-- A step gives the next action's event to the engine the action selects. -/
theorem step_eq_runEvent {s s1 : State} {act : HostAction} {rest : List HostAction}
    (hp : s.pending = act :: rest) (hsel : select act.engine s = some s1) :
    step s = runEvent act.event { s1 with pending := rest } := by
  simp [step, takeAction, hp, hsel]

theorem runCommand_of_decode {c : Command} {i : Instr} (h : decode c = .ok i) (s : State) :
    runCommand c s = exec i s := by
  simp [runCommand, h]

theorem runCommand_of_check {c : Command} {cause : Cause} (h : check c = some cause) (s : State) :
    runCommand c s = .next (rejectCommand cause c s) := by
  simp [runCommand, (decode_eq_error_iff c cause).2 h]

/-- Settles O1: the step gives the command to the selected engine, and a command that decodes runs. -/
theorem stepRunsDecodedCommand : Obligations.StepRunsDecodedCommand :=
  fun _ _ _ _ _ _ hp hsel hd => (step_eq_runEvent hp hsel).trans (runCommand_of_decode hd _)

/-! ### A payload of the wrong length (R68) -/

theorem faultStatus_encode (cause : Cause) (i : Instr) :
    faultStatus cause (encode i) = ⟨1#1, cause.code, i.opcode, i.arg⟩ := by
  rw [faultStatus, opc_encode, arg_encode]

/-- Settles O32: the instruction is ill formed, and the fault records the fields of its command. -/
theorem wrongPayloadLengthFaults : Obligations.WrongPayloadLengthFaults := by
  intro i s hn hlen
  have hw : i.wellFormed = false := by
    cases i with
    | xorin | absorb | absorbf | wrlane => exact beq_false_of_ne hlen
    | _ => exact hlen.elim
  have hr : i ≠ .rdstatus := by
    rintro rfl
    exact hlen
  rw [exec_eq_runChecked hr, runChecked_of_not_wellFormed hn hw, raiseFault, faultStatus_encode]
  rfl

/-! ### RDSTATE (R73) -/

theorem execAll_cons {i : Instr} {s t : State} (h : exec i s = .next t) (is : List Instr) :
    execAll (i :: is) s = execAll is t := by
  simp [execAll, h]

theorem execAll_map_rdlane (ks : List (Fin 25)) {s : State} (hn : s.normal) :
    execAll (ks.map .rdlane) s = .next
      { s with
        responses := s.responses ++ ks.map fun k => ⟨s.index, .ok, le64bytes (readLane s.engine.lanes k)⟩ } := by
  induction ks generalizing s with
  | nil => simp [execAll]
  | cons k ks ih =>
    have hk : exec (.rdlane k) s = .next (s.answered s.engine.lanes (le64bytes (readLane s.engine.lanes k))) :=
      exec_of_normal hn Instr.noConfusion rfl
    rw [List.map_cons, execAll_cons hk, ih (s := s.answered _ _) hn]
    simp [State.answered, State.index]

/-- Settles O48: one RDLANE after the other, by induction on the lanes still to be read. -/
theorem rdstateAnswersEveryLane : Obligations.RdstateAnswersEveryLane :=
  fun _ hn => execAll_map_rdlane _ hn

/-! ### `Exec(S, W, P)` (R70) -/

theorem encode_rdstatus : encode .rdstatus = ⟨0x0000001F#32, []⟩ := rfl

theorem check_rdstatus : check (encode .rdstatus) = none := check_encode_of_wellFormed rfl

/-- An operand is read back from `ARG` by the arms of R70. -/
theorem ofNat_operand {m : Nat} [NeZero m] (hm : m ≤ 256) (n : Fin m) :
    Fin.ofNat m (BitVec.ofNat 8 n.val).toNat = n := by
  rw [toNat_operand hm, Fin.ofNat_val_eq_self]

/-- The arm of R70 that the fields of an instruction select is the body of its command. -/
theorem transactArm_fields {i : Instr} (hr : i ≠ .rdstatus) (e : Engine) :
    transactArm e i.opcode.toNat i.arg.toNat i.payload = commandBody i e.lanes := by
  cases i with
  | rdstatus => exact absurd rfl hr
  | round n => exact congrArg (fun j => (rnd e.lanes j, [])) (ofNat_operand (by decide) n)
  | iota n => exact congrArg (fun j => (iota e.lanes j, [])) (ofNat_operand (by decide) n)
  | rdrc n => exact congrArg (fun j => (e.lanes, le64bytes (rc j))) (ofNat_operand (by decide) n)
  | rdlane k => exact congrArg (fun j => (e.lanes, le64bytes (readLane e.lanes j))) (ofNat_operand (by decide) k)
  | wrlane k p => exact congrArg (fun j => (writeLane e.lanes j (le64 p), [])) (ofNat_operand (by decide) k)
  | _ => rfl

/-- The exact RDSTATUS is answered in every mode (R163). -/
theorem transact_rdstatus (e : Engine) :
    transact e (encode .rdstatus) = (e, .ok, le32bytes (statusWord e.status)) := by
  by_cases hf : e.status.fault = 1#1
  · exact (if_pos hf).trans (if_pos ⟨rfl, rfl⟩)
  · exact if_neg hf

section
variable {e : Engine}

theorem transact_of_faulted (hf : e.status.fault = 1#1) {c : Command} (hc : c ≠ encode .rdstatus) :
    transact e c = (e, .err, []) := by
  refine (if_pos hf).trans (if_neg fun ⟨hword, hlen⟩ => hc ?_)
  rw [encode_rdstatus, ← hword, ← List.length_eq_zero_iff.1 hlen]

theorem transact_of_check (hf : e.status.fault = 0#1) {c : Command} {cause : Cause} (hc : check c = some cause) :
    transact e c = ({ e with status := faultStatus cause c }, .err, []) := by
  simp [transact, hf, hc, faultStatus]

theorem transact_encode (hf : e.status.fault = 0#1) {i : Instr} (hr : i ≠ .rdstatus) (hw : i.wellFormed = true) :
    transact e (encode i) =
      ({ e with lanes := (commandBody i e.lanes).1 }, .ok, (commandBody i e.lanes).2) := by
  simp [transact, hf, check_encode_of_wellFormed hw, transactArm_fields hr]
end

/-- `s` after a transaction of the addressed engine with the result `r`: the engine's state, the tag and the bytes. -/
def State.transacted (s : State) (r : Engine × Tag × List Byte) : State :=
  { s with engine := r.1, responses := s.responses ++ [⟨s.index, r.2.1, r.2.2⟩] }

/-- A command that the decoder rejects is refused or faults as R70 has it. -/
theorem rejectCommand_eq_transacted {c : Command} {cause : Cause} (hc : check c = some cause) (s : State) :
    rejectCommand cause c s = s.transacted (transact s.engine c) := by
  obtain ⟨hf, hrej⟩ | ⟨hf, hrej⟩ := rejectCommand_cases cause c s
  · have hne : c ≠ encode .rdstatus := by
      rintro rfl
      simp [check_rdstatus] at hc
    rw [hrej, transact_of_faulted ((faulted_eq_true_iff _).1 hf) hne]
    rfl
  · rw [hrej, transact_of_check ((faulted_eq_false_iff _).1 hf) hc]
    rfl

/-- A well-formed instruction does what R70 does with its command. -/
theorem exec_eq_transacted {i : Instr} (hw : i.wellFormed = true) (s : State) :
    exec i s = .next (s.transacted (transact s.engine (encode i))) := by
  by_cases hr : i = .rdstatus
  · rw [hr, exec_rdstatus, transact_rdstatus]
    rfl
  cases hf : faulted s.engine with
  | true =>
    have hne : encode i ≠ encode .rdstatus := fun h =>
      hr (Except.ok.inj ((decode_encode hw).symm.trans (h ▸ decode_encode rfl)))
    rw [exec_eq_runChecked hr, runChecked_of_faulted hf, transact_of_faulted ((faulted_eq_true_iff _).1 hf) hne]
    rfl
  | false =>
    have hn : s.normal := (faulted_eq_false_iff _).1 hf
    rw [exec_of_normal hn hr hw, transact_encode hn hr hw]
    rfl

theorem runCommand_eq_transacted (c : Command) (s : State) :
    runCommand c s = .next (s.transacted (transact s.engine c)) := by
  cases hd : decode c with
  | error cause =>
    have hc := (decode_eq_error_iff c cause).1 hd
    rw [runCommand_of_check hc, rejectCommand_eq_transacted hc]
  | ok i => rw [runCommand_of_decode hd, exec_eq_transacted (wellFormed_of_decode hd), encode_of_decode hd]

/-- Settles O46: the step gives the command to the selected engine, which does what R70 does with it. -/
theorem stepIsTransaction : Obligations.StepIsTransaction := by
  intro s s1 e c rest hp hsel
  obtain ⟨-, -, rfl, -⟩ := select_eq_some hsel
  exact (step_eq_runEvent hp hsel).trans (runCommand_eq_transacted c _)

/-! ### The response of a command (R60, R64) -/

@[simp] theorem length_squeezeBytes (a : Lanes) : (squeezeBytes a).length = 32 := by
  simp [squeezeBytes, Config.digestBytes, List.finRange]

/-- The length of what a command answers (R64); RDSTATUS answers `STATUS` and not its body. -/
theorem length_commandBody {i : Instr} (hr : i ≠ .rdstatus) (a : Lanes) :
    (commandBody i a).2.length =
      if i.opcode = 0x10#8 then 32
      else if i.opcode = 0x0E#8 ∨ i.opcode = 0x11#8 then 8
      else if i.opcode = 0x1F#8 then 4 else 0 := by
  cases i with
  | rdstatus => exact absurd rfl hr
  | squeeze => exact length_squeezeBytes a
  | rdrc | rdlane => exact length_le64bytes _
  | _ => rfl

/-- Everything a transaction can be: the exact RDSTATUS, a refusal, a fault, or a command that completes. -/
theorem transact_cases (e : Engine) (c : Command) :
    (c = encode .rdstatus ∧ transact e c = (e, .ok, le32bytes (statusWord e.status))) ∨
    (e.status.fault = 1#1 ∧ c ≠ encode .rdstatus ∧ transact e c = (e, .err, [])) ∨
    (∃ cause, check c = some cause ∧ transact e c = ({ e with status := faultStatus cause c }, .err, [])) ∨
    (e.status.fault = 0#1 ∧ ∃ i, i ≠ .rdstatus ∧ i.wellFormed = true ∧ c = encode i ∧
      transact e c = ({ e with lanes := (commandBody i e.lanes).1 }, .ok, (commandBody i e.lanes).2)) := by
  by_cases hx : c = encode .rdstatus
  · exact .inl ⟨hx, hx ▸ transact_rdstatus e⟩
  cases hf : faulted e with
  | true =>
    have hf := (faulted_eq_true_iff e).1 hf
    exact .inr (.inl ⟨hf, hx, transact_of_faulted hf hx⟩)
  | false =>
    have hf := (faulted_eq_false_iff e).1 hf
    cases hd : decode c with
    | error cause =>
      have hc := (decode_eq_error_iff c cause).1 hd
      exact .inr (.inr (.inl ⟨cause, hc, transact_of_check hf hc⟩))
    | ok i =>
      obtain rfl := encode_of_decode hd
      have hr : i ≠ .rdstatus := fun h => hx (h ▸ rfl)
      have hw := wellFormed_of_decode hd
      exact .inr (.inr (.inr ⟨hf, i, hr, hw, rfl, transact_encode hf hr hw⟩))

/-- Settles O42: by O46 the response is that of the transaction, in each of the cases of `transact_cases`. -/
theorem oneResponsePerCommand : Obligations.OneResponsePerCommand := by
  intro s s1 e c rest hp hsel
  obtain ⟨-, -, -, -, -, hresponses⟩ := select_eq_some hsel
  refine ⟨_, _, _, stepIsTransaction s s1 e c rest hp hsel, by rw [hresponses], ?_⟩
  rw [← encode_rdstatus]
  obtain ⟨rfl, h⟩ | ⟨hf, hx, h⟩ | ⟨cause, hc, h⟩ | ⟨hf, i, hr, hw, rfl, h⟩ :=
    transact_cases s1.engine c <;> rw [h]
  · exact ⟨by simp [check_rdstatus], Tag.noConfusion, fun _ => rfl⟩
  · exact ⟨by simp [hf, hx], fun _ => rfl, Tag.noConfusion⟩
  · exact ⟨by simp [hc], fun _ => rfl, Tag.noConfusion⟩
  · exact ⟨by simp [hf, check_encode_of_wellFormed hw], Tag.noConfusion,
      fun _ => by rw [opc_encode, length_commandBody hr]⟩

end Sys2Proof.Machine
end

section
/-!
Absorption (spec/40_sponge_absorb.md): the padding (R80, R81), the sponge commands INIT, XORIN, ABSORB and ABSORBF (R82 to
R86), and the SHA3-256 state that the commands of HASH leave (R73, R87).
-/
namespace Sys2Proof.Machine

/-! ### The padding (R80, R81) -/

/-- The bytes that `pad` appends to a message of `n` bytes (R80). -/
def padTail (n : Nat) : List Byte :=
  if 136 - n % 136 = 1 then [0x86#8] else 0x06#8 :: (List.replicate (134 - n % 136) 0x00#8 ++ [0x80#8])

theorem pad_eq_append_padTail (m : List Byte) : pad m = m ++ padTail m.length := by
  have hzeros : 136 - m.length % 136 - 2 = 134 - m.length % 136 := by omega
  simp only [pad, padTail, Config.rateBytes, hzeros]
  split <;> simp

/-- The bytes appended fill the last block, and are a whole block where the message ends with one. -/
theorem length_padTail (n : Nat) : (padTail n).length = 136 - n % 136 := by
  unfold padTail
  split
  · simp [*]
  · simp only [List.length_cons, List.length_append, List.length_replicate, List.length_nil]
    omega

theorem length_pad (m : List Byte) : (pad m).length = m.length + (136 - m.length % 136) := by
  rw [pad_eq_append_padTail, List.length_append, length_padTail]

theorem getLast?_padTail (n : Nat) :
    (padTail n).getLast? = some 0x86#8 ∨ (padTail n).getLast? = some 0x80#8 := by
  unfold padTail
  split
  · exact .inl rfl
  · exact .inr (by rw [← List.cons_append, List.getLast?_concat])

/-- The last byte of a padded message ends the padding. -/
theorem getLast?_pad (m : List Byte) : (pad m).getLast? = some 0x86#8 ∨ (pad m).getLast? = some 0x80#8 := by
  rw [pad_eq_append_padTail, List.getLast?_append]
  obtain h | h := getLast?_padTail m.length
  · exact .inl (by rw [h, Option.some_or])
  · exact .inr (by rw [h, Option.some_or])

/-- Settles O16: `pad` appends `padTail`, whose length, last byte and two shortest forms are known. -/
theorem paddingFillsTheLastBlock : Obligations.PaddingFillsTheLastBlock := by
  intro m q
  have hlen : (pad m).length = m.length + q := length_pad m
  have hdrop : (pad m).drop m.length = padTail m.length := by rw [pad_eq_append_padTail, List.drop_left]
  refine ⟨hlen, by omega, by omega, by omega, by rw [pad_eq_append_padTail, List.take_left], ?_, fun hq => ?_,
    fun hq => ?_, by decide⟩
  · obtain h | h := getLast?_pad m
    · exact ⟨_, h, .inr rfl, by decide⟩
    · exact ⟨_, h, .inl rfl, by decide⟩
  · have hmod : m.length % 136 = 134 := by omega
    rw [hdrop, padTail, hmod]
    rfl
  · rw [hdrop, padTail, if_pos hq]

/-- Whole blocks before a message do not change its padding. -/
theorem pad_append {u : List Byte} (hu : 136 ∣ u.length) (v : List Byte) : pad (u ++ v) = u ++ pad v := by
  have hmod : (u.length + v.length) % 136 = v.length % 136 := by omega
  simp only [pad_eq_append_padTail, padTail, List.length_append, hmod, List.append_assoc]

/-- The padding of the final part of a message, written out (R86). -/
theorem pad_of_length_lt {p : List Byte} (hp : p.length < 136) :
    pad p = if p.length = 135 then p ++ [0x86#8]
      else p ++ [0x06#8] ++ List.replicate (134 - p.length) 0x00#8 ++ [0x80#8] := by
  have hq : 136 - p.length = 1 ↔ p.length = 135 := by omega
  simp only [pad_eq_append_padTail, padTail, Nat.mod_eq_of_lt hp, hq]
  split <;> simp

/-- The final part of a message is padded to exactly one block. -/
theorem length_pad_of_lt {p : List Byte} (hp : p.length < 136) : (pad p).length = 136 := by
  rw [length_pad, Nat.mod_eq_of_lt hp]
  omega

/-! ### The block-XOR (R82) -/

/-- Byte `t` of a block's lane `j` is byte `8j + t` of the block. -/
theorem extractLsb'_blockLane (b : List Byte) (j : Nat) {t : Nat} (ht : t < 8) :
    (blockLane b j).extractLsb' (8 * t) 8 = b.getD (8 * j + t) 0#8 := by
  rw [blockLane, extractLsb'_le64 _ ht]
  simp [List.getD_eq_getElem?_getD, List.getElem?_take_of_lt ht]

/-- XORing the same block again restores the lanes. -/
@[simp] theorem xorBlock_xorBlock (a : Lanes) (b : List Byte) : xorBlock (xorBlock a b) b = a := by
  refine lanes_ext fun k => ?_
  rw [readLane_xorBlock, readLane_xorBlock]
  split
  · rw [BitVec.xor_assoc, BitVec.xor_self, BitVec.xor_zero]
  · rfl

/-! ### The sponge commands (R83 to R86) -/

section
variable {s : State} (hn : s.normal) {p : List Byte}
include hn

theorem exec_xorin (hp : p.length = 136) :
    exec (.xorin p) s = .next (s.answered (xorBlock s.engine.lanes p) []) :=
  exec_of_normal hn Instr.noConfusion (beq_iff_eq.2 hp)

theorem exec_absorb (hp : p.length = 136) :
    exec (.absorb p) s = .next (s.answered (absorbBlock s.engine.lanes p) []) :=
  exec_of_normal hn Instr.noConfusion (beq_iff_eq.2 hp)

theorem exec_absorbf {n : Fin 136} (hp : p.length = n.val) :
    exec (.absorbf n p) s = .next (s.answered (absorbBlock s.engine.lanes (pad p)) []) :=
  exec_of_normal hn Instr.noConfusion (beq_iff_eq.2 hp)
end

theorem answered_engine (s : State) (a : Lanes) (bytes : List Byte) :
    (s.answered a bytes).engine = ⟨a, s.engine.status⟩ := rfl

/-- Settles O11: the lanes INIT leaves are `zeroLanes`. -/
theorem initClearsEveryLane : Obligations.InitClearsEveryLane :=
  fun _ hn => ⟨_, exec_of_normal hn Instr.noConfusion rfl, readLane_zeroLanes⟩

/-- Settles O12: a rate lane takes the block's lane, whose bytes are those of the payload. -/
theorem xorinXorsTheBlock : Obligations.XorinXorsTheBlock := by
  refine fun s p hn hp => ⟨_, exec_xorin hn hp, fun j t hj ht => ?_, fun j hj => ?_⟩
  · rw [readLane_xorBlock, if_pos hj, BitVec.extractLsb'_xor, extractLsb'_blockLane _ _ ht]
  · rw [readLane_xorBlock, if_neg (Nat.not_lt.2 hj)]

/-- Settles O13: the second block-XOR undoes the first, and XORIN keeps `STATUS`. -/
theorem xorinTwiceRestores : Obligations.XorinTwiceRestores := by
  intro s p hn hp
  have hsecond := exec_xorin (s := s.answered (xorBlock s.engine.lanes p) []) hn hp
  rw [answered_lanes, xorBlock_xorBlock] at hsecond
  exact ⟨_, _, exec_xorin hn hp, hsecond, by rw [answered_engine, answered_status]⟩

/-- Settles O14: PERMUTE after XORIN is one absorber iteration. -/
theorem absorbIsXorinThenPermute : Obligations.AbsorbIsXorinThenPermute := by
  intro s p hn hp
  have hpermute := exec_of_normal (s := s.answered (xorBlock s.engine.lanes p) []) hn
    (i := .permute) Instr.noConfusion rfl
  exact ⟨_, (execAll_cons (exec_xorin hn hp) _).trans (execAll_cons hpermute []), exec_absorb hn hp⟩

/-- Settles O15: the payload written out is `pad` of the final part, which is one block. -/
theorem absorbfAbsorbsOnePaddedBlock : Obligations.AbsorbfAbsorbsOnePaddedBlock := by
  intro s n p hn hp
  have hlt : p.length < 136 := hp ▸ n.isLt
  rw [← hp, ← pad_of_length_lt hlt]
  exact ⟨_, exec_absorbf hn hp, exec_absorb hn (length_pad_of_lt hlt)⟩

/-! ### Programs issued by the host (R48, R73) -/

theorem execAll_append {is : List Instr} {s t : State} (h : execAll is s = .next t) (js : List Instr) :
    execAll (is ++ js) s = execAll js t := by
  induction is generalizing s with
  | nil =>
    cases h
    rfl
  | cons i is ih =>
    obtain ⟨u, hu⟩ := exec_eq_next i s
    rw [execAll_cons hu] at h
    rw [List.cons_append, execAll_cons hu, ih h]

theorem run_succ {M : Host.Core} {s t : M.State} (h : M.step s = .next t) (k : Nat) :
    M.run (k + 1) s = M.run k t := by
  simp [Host.Core.run, h]

/-- A well-formed command issued to the addressed engine runs on it. -/
theorem step_of_issue {s : State} {i : Instr} (hw : i.wellFormed = true) {is : List Instr} {rest : List HostAction}
    (hp : s.pending = issue s.index (i :: is) ++ rest) :
    step s = exec i { s with pending := issue s.index is ++ rest } :=
  (step_eq_runEvent hp (select_index s)).trans (runCommand_of_decode (decode_encode hw) _)

/-- The commands of a well-formed program issued to the addressed engine run on it one after the other, and the later
actions stay. -/
theorem run_issue {is : List Instr} (hw : ∀ i ∈ is, i.wellFormed = true) {s : State} {rest : List HostAction}
    (hp : s.pending = issue s.index is ++ rest) :
    Host.Core.run Sys2Proof.core is.length s = execAll is { s with pending := rest } := by
  induction is generalizing s with
  | nil =>
    cases hp
    rfl
  | cons i is ih =>
    obtain ⟨hi, his⟩ := List.forall_mem_cons.1 hw
    obtain ⟨g, tag, bytes, hexec⟩ := exec_eq_of_engine i s.engine
    have hstep := (step_of_issue hi hp).trans (hexec _ rfl)
    rw [execAll_cons (hexec { s with pending := rest } rfl)]
    exact (run_succ (M := Sys2Proof.core) hstep is.length).trans (ih his rfl)

/-- A well-formed command that answers no bytes when it completes. -/
structure Silent (i : Instr) : Prop where
  ne_rdstatus : i ≠ .rdstatus
  wellFormed : i.wellFormed = true
  bytes_eq_nil : ∀ a, (commandBody i a).2 = []

/-- What the commands of a program make of the lanes, one after the other. -/
def lanesAfter (is : List Instr) (a : Lanes) : Lanes := is.foldl (fun b i => (commandBody i b).1) a

/-- `s` after `n` commands that answered `(OK, [])` each, with the addressed engine's lanes at `a` in the end. -/
def State.completed (s : State) (a : Lanes) (n : Nat) : State :=
  { s with
    engine := { s.engine with lanes := a }
    responses := s.responses ++ List.replicate n ⟨s.index, .ok, []⟩ }

theorem completed_answered (s : State) (a b : Lanes) (n : Nat) :
    (s.answered b []).completed a n = s.completed a (n + 1) := by
  simp [State.completed, State.answered, State.index, List.replicate_succ]

/-- A program of commands that answer no bytes, in normal mode: each answers `(OK, [])`, and only the lanes change. -/
theorem execAll_of_silent {is : List Instr} (hs : ∀ i ∈ is, Silent i) {s : State} (hn : s.normal) :
    execAll is s = .next (s.completed (lanesAfter is s.engine.lanes) is.length) := by
  induction is generalizing s with
  | nil => simp [execAll, lanesAfter, State.completed]
  | cons i is ih =>
    obtain ⟨⟨hr, hw, hbytes⟩, his⟩ := List.forall_mem_cons.1 hs
    have hi := exec_of_normal hn hr hw
    rw [hbytes] at hi
    have hrest := ih his (s := s.answered (commandBody i s.engine.lanes).1 []) hn
    rw [execAll_cons hi, hrest, completed_answered]
    rfl

/-! ### The SHA3-256 state (R87) -/

theorem length_block {m : List Byte} {b : Nat} (h : b < m.length / 136) : (block m b).length = 136 := by
  simp only [block, Config.rateBytes, List.length_take, List.length_drop]
  omega

/-- A full block of a message is that block of every longer message. -/
theorem block_append_left {m : List Byte} {b : Nat} (h : b < m.length / 136) (tail : List Byte) :
    block (m ++ tail) b = block m b := by
  simp only [block, Config.rateBytes]
  have hlen : 136 ≤ (m.drop (136 * b)).length := by
    rw [List.length_drop]
    omega
  rw [List.drop_append_of_le_length (by omega), List.take_append_of_le_length hlen]

theorem length_finalPart (m : List Byte) : (finalPart m).length = m.length % 136 := by
  simp only [finalPart, Config.rateBytes, List.length_drop]
  omega

theorem length_finalPart_lt (m : List Byte) : (finalPart m).length < 136 :=
  length_finalPart m ▸ Nat.mod_lt _ (by decide)

/-- The last block of a padded message is the padded final part. -/
theorem block_pad_last (m : List Byte) : block (pad m) (m.length / 136) = pad (finalPart m) := by
  have hlen : (m.take (136 * (m.length / 136))).length = 136 * (m.length / 136) := by
    rw [List.length_take]
    omega
  have hpad : pad m = m.take (136 * (m.length / 136)) ++ pad (finalPart m) := by
    rw [← pad_append ⟨_, hlen⟩, finalPart, List.take_append_drop]
  rw [block, hpad, List.drop_left' hlen, List.take_of_length_le (length_pad_of_lt (length_finalPart_lt m)).le]

/-- The blocks of a padded message are the message's full blocks and its padded final part. -/
theorem absorbMessage_pad (a : Lanes) (m : List Byte) :
    absorbMessage a (pad m) = absorbBlock ((fullBlocks m).foldl absorbBlock a) (pad (finalPart m)) := by
  have hblocks : (pad m).length / 136 = m.length / 136 + 1 := by
    rw [length_pad]
    omega
  have hfull : ∀ acc, ∀ b ∈ List.range (m.length / 136),
      absorbBlock acc (block (pad m) b) = absorbBlock acc (block m b) := fun acc b hb => by
    rw [pad_eq_append_padTail, block_append_left (List.mem_range.1 hb)]
  rw [absorbMessage, hblocks, List.range_succ, List.foldl_append, List.foldl_ext _ _ _ hfull, List.foldl_cons,
    List.foldl_nil, block_pad_last, fullBlocks, List.foldl_map]

/-! ### HASH (R73, R87) -/

/-- The commands of HASH before SQUEEZE. -/
def absorbProgram (m : List Byte) : List Instr :=
  .init :: (fullBlocks m).map .absorb ++
    [.absorbf ⟨m.length % 136, Nat.mod_lt _ (by decide)⟩ (finalPart m)]

theorem hashProgram_eq (m : List Byte) : hashProgram m = absorbProgram m ++ [.squeeze] := by
  simp [hashProgram, absorbProgram]

theorem length_absorbProgram (m : List Byte) : (absorbProgram m).length = m.length / 136 + 2 := by
  simp [absorbProgram, fullBlocks]

theorem silent_of_mem_absorbProgram {m : List Byte} : ∀ i ∈ absorbProgram m, Silent i := by
  have hfull : ∀ i ∈ (fullBlocks m).map Instr.absorb, Silent i := by
    simp only [fullBlocks, List.mem_map, List.mem_range]
    rintro _ ⟨_, ⟨b, hb, rfl⟩, rfl⟩
    exact ⟨Instr.noConfusion, beq_iff_eq.2 (length_block hb), fun _ => rfl⟩
  simp only [absorbProgram, List.forall_mem_append, List.forall_mem_cons]
  exact ⟨⟨⟨Instr.noConfusion, rfl, fun _ => rfl⟩, hfull⟩,
    ⟨Instr.noConfusion, beq_iff_eq.2 (length_finalPart m), fun _ => rfl⟩, by simp⟩

/-- Whatever the lanes hold, the commands of HASH before SQUEEZE leave the SHA3-256 state of the message. -/
theorem lanesAfter_absorbProgram (m : List Byte) (a : Lanes) :
    lanesAfter (absorbProgram m) a = absorbMessage zeroLanes (pad m) := by
  rw [absorbMessage_pad]
  simp [lanesAfter, absorbProgram, commandBody, List.foldl_map]

theorem wellFormed_of_mem_hashProgram {m : List Byte} : ∀ i ∈ hashProgram m, i.wellFormed = true := by
  rw [hashProgram_eq, List.forall_mem_append]
  exact ⟨fun i hi => (silent_of_mem_absorbProgram i hi).wellFormed, by simp [Instr.wellFormed]⟩

/-- The commands of HASH, in normal mode: the state is absorbed, and SQUEEZE answers its digest. -/
theorem execAll_hashProgram {s : State} (hn : s.normal) (m : List Byte) :
    execAll (hashProgram m) s = .next
      ((s.completed (absorbMessage zeroLanes (pad m)) (m.length / 136 + 2)).answered
        (absorbMessage zeroLanes (pad m)) (squeezeBytes (absorbMessage zeroLanes (pad m)))) := by
  have habsorb := execAll_of_silent (silent_of_mem_absorbProgram (m := m)) hn
  rw [lanesAfter_absorbProgram, length_absorbProgram] at habsorb
  have hsqueeze := exec_of_normal (i := .squeeze)
    (s := s.completed (absorbMessage zeroLanes (pad m)) (m.length / 136 + 2)) hn Instr.noConfusion rfl
  rw [hashProgram_eq, execAll_append habsorb, execAll_cons hsqueeze]
  rfl

/-- Settles O47: the issued commands run one after the other; those before SQUEEZE answer no bytes and leave
`Absorb(0, pad(M))`, which SQUEEZE reads. -/
theorem hashCommandsComputeSha3 : Obligations.HashCommandsComputeSha3 := by
  intro s m rest hn hp
  have hrun := run_issue wellFormed_of_mem_hashProgram hp
  have hall := execAll_hashProgram (s := { s with pending := rest }) hn m
  exact ⟨_, hrun.trans hall, rfl, rfl, rfl, rfl, rfl, rfl⟩

end Sys2Proof.Machine
end

section
/-!
The permutation (spec/41_permutation.md): the step mappings lane by lane (R101 to R107), the round (R108), the permutation
(R109), and the round constants (R105, R106, R116).
-/
namespace Sys2Proof.Machine

/-! ### The step mappings on the lanes (R101 to R107) -/

theorem get_parities (a : Lanes) (x : Fin 5) : (parities a).get x =
    laneAt a x 0 ^^^ laneAt a x 1 ^^^ laneAt a x 2 ^^^ laneAt a x 3 ^^^ laneAt a x 4 := by
  simp [parities, Vector.get_eq_getElem]

theorem get_thetaMix (c : Vector Lane 5) (x : Fin 5) :
    (thetaMix c).get x = c.get (x - 1) ^^^ rotl (c.get (x + 1)) 1 := by
  simp [thetaMix, Vector.get_eq_getElem]

theorem laneAt_theta (a : Lanes) (x y : Fin 5) :
    laneAt (theta a) x y =
      laneAt a x y ^^^ ((parities a).get (x - 1) ^^^ rotl ((parities a).get (x + 1)) 1) := by
  rw [theta, laneAt_lanesOf, get_thetaMix]

theorem laneAt_chi (a : Lanes) (x y : Fin 5) :
    laneAt (chi a) x y = laneAt a x y ^^^ (~~~(laneAt a (x + 1) y) &&& laneAt a (x + 2) y) :=
  laneAt_lanesOf _ x y

theorem laneIndex_eq_zero_iff (x y : Fin 5) : laneIndex x y = 0 ↔ x = 0 ∧ y = 0 := by
  simp only [laneIndex, Fin.ext_iff, Fin.val_zero]
  omega

theorem laneAt_iota (a : Lanes) (i : Fin 24) (x y : Fin 5) :
    laneAt (iota a i) x y = if x = 0 ∧ y = 0 then laneAt a 0 0 ^^^ rc i else laneAt a x y := by
  simp only [← laneIndex_eq_zero_iff]
  exact readLane_writeLane a 0 _ _

/-! ### The closed form of the rho and pi traversal (R103) -/

/-- Writes to distinct lanes do not disturb each other: a lane written once holds what was written. -/
theorem readLane_foldl_writeLane_of_mem (f : Fin 25 × Fin 25 × Nat → Lane) {ws : List (Fin 25 × Fin 25 × Nat)}
    (hd : (ws.map fun w => w.2.1).Nodup) {w : Fin 25 × Fin 25 × Nat} (hw : w ∈ ws) (b : Lanes) :
    readLane (ws.foldl (fun acc v => writeLane acc v.2.1 (f v)) b) w.2.1 = f w := by
  induction ws generalizing b with
  | nil => cases hw
  | cons v vs ih =>
    obtain ⟨hv, hvs⟩ := List.nodup_cons.1 hd
    rw [List.foldl_cons]
    obtain rfl | hw := List.mem_cons.1 hw
    · have hne : ∀ u ∈ vs, w.2.1 ≠ u.2.1 := fun u hu h => hv (List.mem_map.2 ⟨u, hu, h.symm⟩)
      rw [readLane_foldl_writeLane_of_ne f vs hne, readLane_writeLane_same]
    · exact ih hvs hw _

/-- A step of the traversal puts its source lane, rotated, into its destination lane. -/
theorem readLane_rhoPi_of_mem (a : Lanes) {w : Fin 25 × Fin 25 × Nat} (hw : w ∈ rhoPiSteps) :
    readLane (rhoPi a) w.2.1 = rotl (readLane a w.1) w.2.2 := by
  rw [rhoPi_eq_writes]
  exact readLane_foldl_writeLane_of_mem (fun v => rotl (readLane a v.1) v.2.2) (by decide) hw a

/-- The offsets `r[x,y]`, by flat index (R103). -/
def rhoOffsets : Vector Nat 25 :=
  #v[0, 1, 62, 28, 27, 36, 44, 6, 55, 20, 3, 10, 43, 25, 39, 41, 45, 15, 21, 8, 18, 2, 61, 56, 14]

/-- The traversal takes every lane but (0,0) to its place, with its offset of the table. -/
theorem mem_rhoPiSteps : ∀ x y : Fin 5, laneIndex x y ≠ 0 →
    (laneIndex x y, laneIndex y (2 * x + 3 * y), rhoOffsets.get (laneIndex x y)) ∈ rhoPiSteps := by
  decide

theorem laneAt_rhoPi (a : Lanes) (x y : Fin 5) :
    laneAt (rhoPi a) y (2 * x + 3 * y) = rotl (laneAt a x y) (rhoOffsets.get (laneIndex x y)) := by
  by_cases h : laneIndex x y = 0
  · have hdest : laneIndex y (2 * x + 3 * y) = 0 := by
      obtain ⟨rfl, rfl⟩ := (laneIndex_eq_zero_iff x y).1 h
      rfl
    have hoffset : rhoOffsets.get 0 = 0 := rfl
    rw [laneAt, laneAt, hdest, h, hoffset, rotl_zero, readLane_rhoPi_zero]
  · exact (readLane_rhoPi_of_mem a (mem_rhoPiSteps x y h) :)

/-! ### The commands of the step mappings (R110 to R113) -/

/-- Settles O18: THETA's lanes by `laneAt_theta`, with the parities written out. -/
theorem thetaMixesColumns : Obligations.ThetaMixesColumns := by
  refine fun s hn => ⟨theta s.engine.lanes, exec_of_normal hn Instr.noConfusion rfl, fun x y => ?_⟩
  rw [laneAt_theta, get_parities, get_parities]

/-- Settles O19: the traversal's writes are to distinct lanes, so each lane is the closed form's; its orbit is a closed
table. -/
theorem rhopiIsTheClosedForm : Obligations.RhopiIsTheClosedForm :=
  ⟨fun s hn => ⟨rhoPi s.engine.lanes, exec_of_normal hn Instr.noConfusion rfl, laneAt_rhoPi s.engine.lanes⟩,
    by decide⟩

/-- Settles O20: CHI's lanes by `laneAt_chi`. -/
theorem chiCombinesRows : Obligations.ChiCombinesRows :=
  fun s hn => ⟨chi s.engine.lanes, exec_of_normal hn Instr.noConfusion rfl, laneAt_chi s.engine.lanes⟩

/-- Settles O21: IOTA's lanes by `laneAt_iota`. -/
theorem iotaXorsOneLane : Obligations.IotaXorsOneLane :=
  fun s i hn => ⟨iota s.engine.lanes i, exec_of_normal hn Instr.noConfusion rfl, laneAt_iota s.engine.lanes i⟩

/-! ### The round and the permutation (R108, R109) -/

theorem silent_theta : Silent .theta := ⟨Instr.noConfusion, rfl, fun _ => rfl⟩

theorem silent_rhopi : Silent .rhopi := ⟨Instr.noConfusion, rfl, fun _ => rfl⟩

theorem silent_chi : Silent .chi := ⟨Instr.noConfusion, rfl, fun _ => rfl⟩

theorem silent_iota (i : Fin 24) : Silent (.iota i) := ⟨Instr.noConfusion, rfl, fun _ => rfl⟩

theorem silent_round (i : Fin 24) : Silent (.round i) := ⟨Instr.noConfusion, rfl, fun _ => rfl⟩

theorem silent_permute : Silent .permute := ⟨Instr.noConfusion, rfl, fun _ => rfl⟩

theorem lanesAfter_roundSteps (i : Fin 24) (a : Lanes) :
    lanesAfter [.theta, .rhopi, .chi, .iota i] a = rnd a i := rfl

theorem lanesAfter_rounds (is : List (Fin 24)) (a : Lanes) :
    lanesAfter (is.map .round) a = is.foldl rnd a :=
  List.foldl_map

/-- In normal mode a command leaves the lanes that a program leaves, if its body does what theirs do in turn. -/
theorem exec_of_lanesAfter {i : Instr} (hi : Silent i) {is : List Instr} (his : ∀ j ∈ is, Silent j)
    {s : State} (hbody : (commandBody i s.engine.lanes).1 = lanesAfter is s.engine.lanes) (hn : s.normal) :
    ∃ u, execAll is s = .next u ∧ exec i s = .next (s.answered u.engine.lanes []) := by
  refine ⟨_, execAll_of_silent his hn, ?_⟩
  rw [exec_of_normal hn hi.ne_rdstatus hi.wellFormed, hi.bytes_eq_nil, hbody]
  rfl

/-- Settles O22: the body of ROUND is those of the four commands in turn. -/
theorem roundIsFourSteps : Obligations.RoundIsFourSteps := by
  intro s i hn
  have hsteps : ∀ j ∈ [.theta, .rhopi, .chi, .iota i], Silent j := by
    simp [silent_theta, silent_rhopi, silent_chi, silent_iota]
  exact exec_of_lanesAfter (silent_round i) hsteps (lanesAfter_roundSteps i _).symm hn

/-- Settles O23: the body of PERMUTE is those of the 24 rounds in turn. -/
theorem permuteIsTwentyFourRounds : Obligations.PermuteIsTwentyFourRounds := by
  intro s hn
  have hrounds : ∀ j ∈ (List.finRange 24).map .round, Silent j :=
    List.forall_mem_map.2 fun i _ => silent_round i
  exact exec_of_lanesAfter silent_permute hrounds (lanesAfter_rounds _ _).symm hn

/-! ### The round constants (R105, R106, R116) -/

theorem rc_eq_rcFromLfsr : ∀ i : Fin 24, rc i = rcFromLfsr i := by decide

/-- Bits 0, 1, 3, 7, 15, 31 and 63 are the mask. -/
theorem rc_bits_within_mask : ∀ i : Fin 24, rc i &&& ~~~0x800000008000808B#64 = 0#64 := by decide

/-- Settles O24: both clauses by the 24 values of the table. -/
theorem roundConstantsComeFromTheLfsr : Obligations.RoundConstantsComeFromTheLfsr :=
  fun i => ⟨rc_eq_rcFromLfsr i, rc_bits_within_mask i⟩

/-- Settles O25: RDRC's body keeps the lanes and answers the constant. -/
theorem rdrcAnswersTheConstant : Obligations.RdrcAnswersTheConstant :=
  fun _ _ hn => exec_of_normal hn Instr.noConfusion rfl

end Sys2Proof.Machine
end

section
/-!
Squeezing and lane access (spec/42_squeeze_access.md): SQUEEZE (R140, R141), RDLANE and WRLANE (R142, R143), and RDSTATUS
(R144).
-/
namespace Sys2Proof.Machine

/-! ### The digest (R140, R141) -/

/-- The loop of R140 visits lanes 0 to 3 first, and their 32 bytes are all that is taken. -/
theorem squeezeBytes_eq (a : Lanes) : squeezeBytes a =
    le64bytes (readLane a 0) ++ le64bytes (readLane a 1) ++
      le64bytes (readLane a 2) ++ le64bytes (readLane a 3) := by
  obtain ⟨rest, hfirst⟩ : ∃ rest, squeezeBytes a =
      (le64bytes (readLane a 0) ++ le64bytes (readLane a 1) ++
        le64bytes (readLane a 2) ++ le64bytes (readLane a 3) ++ rest).take 32 := ⟨_, rfl⟩
  rw [hfirst, List.take_left' (by simp)]

/-- Settles O17: SQUEEZE's body keeps the lanes and answers the digest, which is lanes 0 to 3. -/
theorem squeezeAnswersLanesZeroToThree : Obligations.SqueezeAnswersLanesZeroToThree := by
  intro s hn
  rw [← squeezeBytes_eq]
  exact exec_of_normal hn Instr.noConfusion rfl

/-! ### Lane access (R142, R143) -/

/-- Settles O26: RDLANE's body keeps the lanes and answers lane `k`. -/
theorem rdlaneAnswersTheLane : Obligations.RdlaneAnswersTheLane :=
  fun _ _ hn => exec_of_normal hn Instr.noConfusion rfl

theorem exec_wrlane {s : State} (hn : s.normal) (k : Fin 25) {p : List Byte} (hp : p.length = 8) :
    exec (.wrlane k p) s = .next (s.answered (writeLane s.engine.lanes k (le64 p)) []) :=
  exec_of_normal hn Instr.noConfusion (beq_iff_eq.2 hp)

/-- Settles O27: lane `k` is the payload's value, whose bytes are the payload; a RDLANE that follows answers them. -/
theorem wrlaneIsReadBack : Obligations.WrlaneIsReadBack := by
  refine fun s k p hn hp => ⟨_, exec_wrlane hn k hp, fun t ht => ?_, fun j hj => readLane_writeLane_ne _ _ hj, ?_⟩
  · rw [readLane_writeLane_same, extractLsb'_le64 p ht]
  · have hread := rdlaneAnswersTheLane (s.answered (writeLane s.engine.lanes k (le64 p)) []) k hn
    rwa [answered_lanes, readLane_writeLane_same, le64bytes_le64 hp] at hread

/-! ### The status (R23, R144) -/

/-- The bytes of a word put together from four bytes are these bytes. -/
@[simp] theorem le32bytes_le32 (b0 b1 b2 b3 : Byte) : le32bytes (le32 b0 b1 b2 b3) = [b0, b1, b2, b3] := by
  have h0 : (le32 b0 b1 b2 b3).extractLsb' 0 8 = b0 := BitVec.extractLsb'_append_eq_right
  have h1 : (le32 b0 b1 b2 b3).extractLsb' 8 8 = b1 :=
    (BitVec.extractLsb'_append_eq_of_le (by decide)).trans BitVec.extractLsb'_append_eq_right
  have h2 : (le32 b0 b1 b2 b3).extractLsb' 16 8 = b2 :=
    (BitVec.extractLsb'_append_eq_of_le (by decide)).trans
      ((BitVec.extractLsb'_append_eq_of_le (by decide)).trans BitVec.extractLsb'_append_eq_right)
  have h3 : (le32 b0 b1 b2 b3).extractLsb' 24 8 = b3 :=
    (BitVec.extractLsb'_append_eq_of_le (by decide)).trans
      ((BitVec.extractLsb'_append_eq_of_le (by decide)).trans BitVec.extractLsb'_append_eq_left)
  rw [le32bytes, h0, h1, h2, h3]

/-- `STATUS` is four bytes: `FAULT` below the seven reserved bits, `CAUSE`, `FOPC` and `FARG` (R23). -/
theorem statusWord_eq_le32 (st : Status) :
    statusWord st = le32 (0#7 ++ st.fault) st.cause st.fopc st.farg :=
  BitVec.append_assoc

/-- Settles O28: RDSTATUS answers, in every mode, the four bytes `STATUS` is put together from. -/
theorem rdstatusAnswersInEveryMode : Obligations.RdstatusAnswersInEveryMode := by
  intro s
  rw [exec_rdstatus, statusWord_eq_le32, le32bytes_le32]

end Sys2Proof.Machine
end

section
/-!
Faults (spec/60_exceptions.md): fault entry (R161, R162), faulted mode (R163), and that only a malformed command makes a
run fault (R160).
-/
namespace Sys2Proof.Machine

/-! ### Faulted mode (R163) -/

/-- Settles O33: by O46 the step is the transaction, which in faulted mode answers the exact RDSTATUS and refuses every
other command. -/
theorem faultedModeRefuses : Obligations.FaultedModeRefuses := by
  intro s s1 e c rest hp hsel hf
  rw [stepIsTransaction s s1 e c rest hp hsel, ← encode_rdstatus]
  by_cases hx : c = encode .rdstatus
  · rw [if_pos hx, hx, transact_rdstatus]
  · rw [if_neg hx, transact_of_faulted hf hx]

/-! ### Fault entry (R161, R162) -/

/-- Settles O31: by O46 the step is the transaction, which in normal mode records the fault; in faulted mode O33 keeps
the engine. -/
theorem malformedCommandFaults : Obligations.MalformedCommandFaults := by
  intro s s1 e c rest cause hp hsel hc
  refine ⟨fun hn => ?_, fun hnot => ?_⟩
  · rw [stepIsTransaction s s1 e c rest hp hsel, transact_of_check hn hc]
    rfl
  · have hf : s1.engine.status.fault = 1#1 := (BitVec.eq_zero_or_eq_one _).resolve_left hnot
    exact ⟨_, faultedModeRefuses s s1 e c rest hp hsel hf, rfl⟩

/-! ### Runs of resets and well-formed commands (R160) -/

/-- Every engine of the platform is in normal mode. -/
def State.allNormal (s : State) : Prop := ∀ e ∈ s.engines, e.status.fault = 0#1

/-- The action is addressed to one of `n` engines, and is a reset or a command that passes the check. -/
def HostAction.admissible (n : Nat) (act : HostAction) : Prop :=
  act.engine < n ∧ (act.event = .reset ∨ ∃ c, act.event = .command c ∧ check c = none)

/-- An action to an engine that is there is taken by a step that stops nowhere. -/
theorem exists_step_of_lt {s : State} {act : HostAction} {rest : List HostAction} (hp : s.pending = act :: rest)
    (hlt : act.engine < s.engines.length) : ∃ t, step s = .next t := by
  obtain hnext | ⟨act', rest', hp', hge, -⟩ := everyCommandCompletes s
  · exact hnext
  · cases hp.symm.trans hp'
    exact absurd hlt (Nat.not_lt.2 hge)

/-- A step that takes an admissible action faults no engine: where `STATUS` changes, O34 leaves only the reset. -/
theorem allNormal_of_step {s t : State} {act : HostAction} {rest : List HostAction} (hp : s.pending = act :: rest)
    {n : Nat} (hact : act.admissible n) (hs : s.allNormal) (hstep : step s = .next t) : t.allNormal := by
  intro e' he'
  obtain ⟨j, hj, rfl⟩ := List.getElem_of_mem he'
  have hj' : j < s.engines.length := engines_length_of_step hstep ▸ hj
  by_cases heq : t.engines[j].status = s.engines[j].status
  · exact heq ▸ hs _ (List.getElem_mem hj')
  obtain ⟨_, -, hst⟩ | ⟨-, c, cause, _, hp', hc, -⟩ := statusChangesOnlyByFaultOrReset s t j _ _ hstep
    (List.getElem?_eq_getElem hj') (List.getElem?_eq_getElem hj) heq
  · exact hst ▸ Status.reset_fault
  · cases hp.symm.trans hp'
    obtain ⟨-, hev | ⟨_, hev, hnone⟩⟩ := hact
    · cases hev
    · cases hev
      cases hnone.symm.trans hc

/-- A run that takes admissible actions is safe, by induction on them: each step takes one, keeps the later ones and the
number of engines, and faults none. -/
theorem safeRun_of_admissible (acts : List HostAction) {s : State} (hp : s.pending = acts) (hs : s.allNormal)
    (hacts : ∀ act ∈ acts, act.admissible s.engines.length) : SafeRun acts.length s := by
  induction acts generalizing s with
  | nil => exact ⟨s, rfl, hs⟩
  | cons act rest ih =>
    obtain ⟨hact, hrest⟩ := List.forall_mem_cons.1 hacts
    obtain ⟨t, hstep⟩ := exists_step_of_lt hp hact.1
    have hpending : t.pending = rest := (actionsAreTakenInOrder s t act rest hp hstep).1
    obtain ⟨u, hrun, hu⟩ := ih hpending (allNormal_of_step hp hact hs hstep)
      (engines_length_of_step hstep ▸ hrest)
    exact ⟨u, (run_succ (M := Sys2Proof.core) hstep rest.length).trans hrun, hu⟩

/-- Settles O37: the pending actions are admissible. -/
theorem wellFormedCommandsNeverFault : Obligations.WellFormedCommandsNeverFault :=
  fun s hs hacts => safeRun_of_admissible s.pending rfl hs hacts

end Sys2Proof.Machine
end

section
/-!
Reset and hazards (spec/70_reset_and_hazards.md): the reset event (R180).
-/
namespace Sys2Proof.Machine

/-- A step with a reset leaves the addressed engine as it is after reset, and takes the action, whatever that engine held
before. -/
theorem step_of_pending_reset {s s1 : State} {e : Nat} {rest : List HostAction}
    (hp : s.pending = ⟨e, .reset⟩ :: rest) (hsel : select e s = some s1) :
    step s = .next { s1 with engine := Engine.reset, pending := rest } :=
  step_eq_runEvent hp hsel

/-- Settles O39: the engine the step leaves is `Engine.reset`, with every lane and `STATUS` 0. -/
theorem resetEventClearsTheEngine : Obligations.ResetEventClearsTheEngine :=
  fun _ _ _ _ hp hsel => ⟨Engine.reset, step_of_pending_reset hp hsel, readLane_zeroLanes, rfl⟩

end Sys2Proof.Machine
end
